-- ==== Sys2Proof/Word.lean ====
section
/-! DEFINITION. The word types of the BX40's formats (10_frame_and_record_layouts.md): bytes, two-byte fields and
the four-byte image id. -/

namespace Sys2Proof

/-- One byte of a frame body, a message, the configuration block or a view. -/
abbrev Byte := BitVec 8

/-- A two-byte field: an order id, a generation, a check, a statistic. -/
abbrev Word16 := BitVec 16

/-- The four-byte image id. -/
abbrev Word32 := BitVec 32

end Sys2Proof
end

