-- ==== Sys2Proof/Syntax.lean ====
section
/-! DEFINITION. The commands: one constructor of Instr per row of spec/opcode_table.json, with the data the event
carries. A command is an event at one of the station's five ways in, or the running-out of one of its timers
(00_scope.md 1.2); its operands hold what the world decides (log 1). -/

namespace Sys2Proof

/-- R1: the two levels of the row pair. -/
inductive Level where
  | dominant
  | recessive
  deriving DecidableEq, Repr

/-- R2: one group of a frame as a receiver reads it: eight data bits, most significant first, and the level of the
spacer that follows them. -/
structure Group where
  byte : Byte
  spacer : Level
  deriving DecidableEq, Repr

/-- The frame whose end a command reports: this station's own frame (R14: it transmitted the frame to the end of the
verdict slot), or a frame it received, as the groups it read from the contention field through the check. -/
inductive LineFrame where
  | own
  | heard (groups : List Group)
  deriving DecidableEq, Repr

/-- R71: the bytes of the order input line that a silence of more than 5 ms has ended; afterSilence: the receiver had seen
such a silence before the first of them (log 31). -/
structure LineBytes where
  afterSilence : Bool
  bytes : List Byte
  deriving DecidableEq, Repr

/-- R83: the three remaining-time counts. -/
inductive NightCount where
  | start
  | deadline
  | grace
  deriving DecidableEq, Repr

/-- The commands of the block, in the table's order. -/
inductive Instr where
  /-- COLD_START (R173): standby power is applied; the levels read on the three power inputs (R129, R132, log 5). -/
  | coldStart (powerGood supplyReq panelButton : Bool)
  /-- CONFIG_READ_DONE (R175): the 20 bytes of the block, as read. -/
  | configReadDone (block : List Byte)
  /-- READ_LIMIT_EXPIRY (R173). -/
  | readLimitExpiry
  /-- ATTEMPT_START (R4). -/
  | attemptStart
  /-- LOST_ARBITRATION (R7). -/
  | lostArbitration
  /-- COLLISION (R9). -/
  | collision
  /-- LOST_FRAMING (R12). -/
  | lostFraming
  /-- FRAME_DELIVERED (R14): a verdict slot ends recessive on the frame. -/
  | frameDelivered (frame : LineFrame)
  /-- FRAME_VETOED (R15): the frame ends at this station as vetoed. -/
  | frameVetoed (frame : LineFrame)
  /-- STUCK_LINE (R19). -/
  | stuckLine
  /-- STUCK_LINE_CLEAR (R19). -/
  | stuckLineClear
  /-- ORDER_MESSAGE (R71, R73): every byte that came before the silence that now ends them. -/
  | orderMessage (line : LineBytes)
  /-- POINTER_WRITE (R155): the bus address of the write transaction, and its first byte. -/
  | pointerWrite (address : BitVec 7) (byte : Byte)
  /-- VIEW_WRITE (R157). -/
  | viewWrite (value : Byte)
  /-- INDEX_WRITE (R158). -/
  | indexWrite (value : Byte)
  /-- STATION_WRITE (R159). -/
  | stationWrite (value : Byte)
  /-- DATA_READ (R160): one byte read from DATA in a read transaction at the address. -/
  | dataRead (address : BitVec 7)
  /-- DATA_WRITE (R163): one byte written to DATA. -/
  | dataWrite (value : Byte)
  /-- EVENTS_READ (R170): the byte at this position of a read of EVENTS, counted from 0. -/
  | eventsRead (address : BitVec 7) (position : Nat)
  /-- EVENTS_WRITE (R170): a byte written to EVENTS at this position of the write. -/
  | eventsWrite (position : Nat) (value : Byte)
  /-- EVENT_MASK_WRITE (R171): a byte written to EVENT_MASK at this position of the write. -/
  | eventMaskWrite (position : Nat) (value : Byte)
  /-- REJOIN (R70): the command with code REJOIN; the argument is ignored (R172). -/
  | rejoin (argument : Byte)
  /-- PROBE (R172): the command with code PROBE and its argument. -/
  | probe (argument : Byte)
  /-- UNKNOWN_COMMAND (R172): a command with any other code. -/
  | unknownCommand (code argument : Byte)
  /-- POWER_GOOD_RISE (R139). -/
  | powerGoodRise
  /-- POWER_GOOD_FALL (R146). -/
  | powerGoodFall
  /-- SUPPLY_REQ_RELEASE (R130). -/
  | supplyReqRelease
  /-- PRESS_BEGIN (R151). -/
  | pressBegin
  /-- PRESS_END (R152). -/
  | pressEnd
  /-- PRESS_TIMER_EXPIRY (R152). -/
  | pressTimerExpiry
  /-- ASK_WAIT_EXPIRY (R50). -/
  | askWaitExpiry
  /-- SERIES_GAP_EXPIRY (R60). -/
  | seriesGapExpiry
  /-- SERIES_WATCH_GAP_EXPIRY (R55). -/
  | seriesWatchGapExpiry
  /-- SERIES_PAUSE_END (R57). -/
  | seriesPauseEnd
  /-- ISOLATED_COOLDOWN_EXPIRY (R68). -/
  | isolatedCooldownExpiry
  /-- NIGHT_COUNT_EXPIRY (R84): the count that expires. -/
  | nightCountExpiry (count : NightCount)
  /-- RUN0_SECOND_TICK (R54). -/
  | run0SecondTick
  /-- CLAIM_AGE_EXPIRY (R97). -/
  | claimAgeExpiry
  /-- KEEP_TIMER_EXPIRY (R107). -/
  | keepTimerExpiry
  /-- LAST_HEARD_TICK (R35, R109): the next moment at which a last-heard age passes a whole second (log 4). -/
  | lastHeardTick
  /-- GATE_PATIENCE_EXPIRY (R120). -/
  | gatePatienceExpiry
  /-- WAKE_PULSE_END (R129). -/
  | wakePulseEnd
  /-- GOOD_LIMIT_EXPIRY (R139). -/
  | goodLimitExpiry
  /-- SETTLE_EXPIRY (R139). -/
  | settleExpiry
  /-- CONTACT_TIMER_EXPIRY (R141). -/
  | contactTimerExpiry
  /-- PROGRESS_TIMER_EXPIRY (R144). -/
  | progressTimerExpiry
  /-- SHUTDOWN_TIMER_EXPIRY (R145). -/
  | shutdownTimerExpiry
  /-- COOLDOWN_EXPIRY (R147): with the level of SUPPLY_REQ at that moment (R130, log 5). -/
  | cooldownExpiry (supplyReq : Bool)
  deriving DecidableEq, Repr

end Sys2Proof
end

