-- ==== Sys2Proof/Decode.lean ====
section
/-! DEFINITION. The command a table word spells: spec/opcode_table.json gives no row any bits, so no word spells one
(log 33). -/

namespace Sys2Proof

/-- The command read from a word by the table's bits: none, since every row's list of fields is empty. -/
def decodeTableWord (_nbits _w : Nat) : Option Instr := none

end Sys2Proof
end

