-- ==== Sys2Proof/Config.lean ====
section
/-! DEFINITION. What is fixed for the part: the durations of its timers in milliseconds, its limits, the fixed
values of its layouts, and the free values (no body: nothing about them can be proved). -/

namespace Sys2Proof.Config

/-! ## Durations, in milliseconds -/

/-- R173: the read limit of the Configuration Loader. -/
def readLimit : Nat := 100
/-- R49: the ask wait. -/
def askWait : Nat := 2000
/-- R58, R61: the joiner's series gap timer. -/
def seriesGap : Nat := 1000
/-- R55: the gap timer of the series watch. -/
def watchGap : Nat := 1000
/-- R57: the answerer's pause after runs 4, 8, 12, 16 and 20. -/
def seriesPause : Nat := 5
/-- R67: the isolated cooldown. -/
def isolatedCooldown : Nat := 600000
/-- R97: the claim age timer. -/
def claimAge : Nat := 10000
/-- R107: the keep timer. -/
def keep : Nat := 30000
/-- R120: gate patience. -/
def gatePatience : Nat := 600000
/-- R138: the wake pulse. -/
def wakePulse : Nat := 200
/-- R138: the good limit. -/
def goodLimit : Nat := 3000
/-- R139: the settle timer. -/
def settle : Nat := 5000
/-- R140: the contact timer. -/
def contact : Nat := 240000
/-- R141, R142: the progress timer. -/
def progress : Nat := 600000
/-- R145: the shutdown timer. -/
def shutdown : Nat := 180000
/-- R146: the cooldown timer. -/
def cooldown : Nat := 15000
/-- R152: the press timer. -/
def press : Nat := 4000

/-! ## Limits -/

/-- R7, R20: the greatest loss count, and R6: the greatest age. -/
def maxLoss : Nat := 63
/-- R17: the veto count at which a frame is dropped. -/
def vetoLimit : Nat := 16
/-- R18: the veto run at which the permission is withheld. -/
def vetoRunLimit : Nat := 8
/-- R10: the collision count that is reported as a duplicate number. -/
def collisionLimit : Nat := 3
/-- R50: the ask count at which an unsuccessful ask isolates the station. -/
def askLimit : Nat := 4
/-- R59: the frames the catch-up buffer keeps. -/
def bufferLimit : Nat := 16
/-- R94: the greatest patience. -/
def maxPatience : Nat := 63
/-- R95: the patience from which a request may reserve. -/
def parkPatience : Nat := 12
/-- R109: the silence limit in seconds. -/
def silenceLimit : Nat := 100
/-- R35: the age at which a last-heard age stops. -/
def maxHeardAge : Nat := 65535
/-- R131: the swallowed-press count stops here. -/
def maxSwallowed : Nat := 255
/-- R142, R123: progress in per mille, at most this. -/
def maxProgress : Nat := 1000
/-- R32: the stations of a row. -/
def stations : Nat := 40
/-- R71: the bytes of a message that the receiver keeps, and R73: a message's length. -/
def messageLength : Nat := 21
/-- R173: the bytes of the configuration block. -/
def blockLength : Nat := 20
/-- R3: the greatest body length. -/
def maxBody : Nat := 24

/-! ## Fixed values of the layouts (chapter 10) -/

/-- 10.7: the format marker of this edition. -/
def formatMarker : Byte := 0xA7
/-- 10.9: the part code. -/
def partCode : Word16 := 0xB040
/-- 10.9: the layout revision. -/
def layoutRevision : Byte := 0x01
/-- R155, R177: the fallback address. -/
def fallbackAddress : Byte := 0x3A
/-- 10.6: the two sync bytes of an order message. -/
def sync0 : Byte := 0xB5
/-- 10.6: the second sync byte. -/
def sync1 : Byte := 0x4E

/-! ## Free values (log 8, log 9) -/

/-- DESIGN CHOICE (log 8), safe: the night state an install writes where run 0's three bits name none of the six
(the spec states no result); the argument is the model's counter. -/
opaque freeNightState : Nat → Fin 6

/-- DESIGN CHOICE (log 8), safe: the presence an install writes for a code outside the table; the arguments are the
model's counter and the station number. -/
opaque freePresence : Nat → Nat → Fin 3

/-- DESIGN CHOICE (log 8), safe: the roster state code an install writes for a code above 12. -/
opaque freeRosterState : Nat → Nat → Fin 13

/-- DESIGN CHOICE (log 9), safe: a pool's in-use after the units given back exceed it, which only an inconsistent
snapshot can bring about; the arguments are the in-use count and the units. -/
opaque freeInUse : Nat → Nat → Nat

end Sys2Proof.Config
end

