-- ==== Sys2Proof/Machine/Types.lean ====
section
/-! DEFINITION. The names of the manual as types: pools, states, marks, reasons, frame bodies; and their codes
(10_frame_and_record_layouts.md 10.5). -/

namespace Sys2Proof.Machine

/-! ## Pools -/

/-- The three pools (5.1): records 0, 1, 2. -/
inductive Pool where
  | surge
  | load
  | feed
  deriving DecidableEq, Repr

/-- One value for each pool, in the order SURGE, LOAD, FEED. -/
structure PerPool (α : Type) where
  surge : α
  load : α
  feed : α
  deriving DecidableEq, Repr

/-- The value of one pool. -/
def PerPool.get {α : Type} (x : PerPool α) : Pool → α
  | .surge => x.surge
  | .load => x.load
  | .feed => x.feed

/-- The values with one pool's replaced. -/
def PerPool.set {α : Type} (x : PerPool α) (p : Pool) (v : α) : PerPool α :=
  match p with
  | .surge => { x with surge := v }
  | .load => { x with load := v }
  | .feed => { x with feed := v }

/-- The same function at each pool. -/
def PerPool.map {α β : Type} (f : α → β) (x : PerPool α) : PerPool β :=
  ⟨f x.surge, f x.load, f x.feed⟩

/-- A value computed for each pool. -/
def PerPool.ofFun {α : Type} (f : Pool → α) : PerPool α := ⟨f .surge, f .load, f .feed⟩

/-- The same value for each pool. -/
def PerPool.all {α : Type} (v : α) : PerPool α := ⟨v, v, v⟩

/-- Some pool's value is set. -/
def PerPool.any (x : PerPool Bool) : Bool := x.surge || x.load || x.feed

/-- Whether every amount is 0. -/
def PerPool.isZero (x : PerPool Nat) : Bool := x.surge == 0 && x.load == 0 && x.feed == 0

/-- 10.3: the pool code. -/
def Pool.code : Pool → Byte
  | .surge => 0
  | .load => 1
  | .feed => 2

/-- 10.3: the pool a code names; any other code names none. -/
def Pool.ofCode (c : Byte) : Option Pool :=
  if c = 0 then some .surge else if c = 1 then some .load else if c = 2 then some .feed else none

/-! ## Night -/

/-- R27: the night state. -/
inductive NightState where
  | idle
  | pending
  | running
  | held
  | closing
  | ended
  deriving DecidableEq, Repr

/-- R27: the state that RESUME returns to. -/
inductive HeldFrom where
  | pending
  | running
  deriving DecidableEq, Repr

/-- R27: held-from as a night state. -/
def HeldFrom.state : HeldFrom → NightState
  | .pending => .pending
  | .running => .running

/-- 10.5: the night state codes. -/
def NightState.code : NightState → Byte
  | .idle => 0
  | .pending => 1
  | .running => 2
  | .held => 3
  | .closing => 4
  | .ended => 5

/-- 10.5: the night state a code names. -/
def NightState.ofCode (c : Byte) : Option NightState :=
  if c = 0 then some .idle else if c = 1 then some .pending else if c = 2 then some .running
  else if c = 3 then some .held else if c = 4 then some .closing else if c = 5 then some .ended else none

/-- R79: the four actions of a NIGHT frame. -/
inductive NightAction where
  | step
  | hold
  | resume
  | abort
  deriving DecidableEq, Repr

/-- 10.3: the action codes of a NIGHT frame. -/
def NightAction.code : NightAction → Byte
  | .step => 1
  | .hold => 2
  | .resume => 3
  | .abort => 4

/-- 10.3: the action a code names; any other code forms no row of R79. -/
def NightAction.ofCode (c : Byte) : Option NightAction :=
  if c = 1 then some .step else if c = 2 then some .hold else if c = 3 then some .resume
  else if c = 4 then some .abort else none

/-- R72: the four actions of an order message. -/
inductive OrderAction where
  | new
  | hold
  | resume
  | abort
  deriving DecidableEq, Repr

/-- 10.6: the action a message's code names; any other fails as BAD_ACTION. -/
def OrderAction.ofCode (c : Byte) : Option OrderAction :=
  if c = 1 then some .new else if c = 2 then some .hold else if c = 3 then some .resume
  else if c = 4 then some .abort else none

/-- R75: the reject reasons, with NONE before any. -/
inductive RejectReason where
  | none
  | badSync
  | badLength
  | badCheck
  | wrongRow
  | notSynced
  | badAction
  | notNewer
  | nightActive
  | range
  | wrongId
  | wrongState
  | busy
  deriving DecidableEq, Repr

/-- 10.5: the reject reason codes. -/
def RejectReason.code : RejectReason → Byte
  | .none => 0
  | .badSync => 1
  | .badLength => 2
  | .badCheck => 3
  | .wrongRow => 4
  | .notSynced => 5
  | .badAction => 6
  | .notNewer => 7
  | .nightActive => 8
  | .range => 9
  | .wrongId => 10
  | .wrongState => 11
  | .busy => 12

/-! ## Roster -/

/-- R32: presence. -/
inductive Presence where
  | unknown
  | present
  | silent
  deriving DecidableEq, Repr

/-- 10.5: the presence codes. -/
def Presence.code : Presence → Byte
  | .unknown => 0
  | .present => 1
  | .silent => 2

/-- R32: the twelve states a station marks, without sub-phase. -/
inductive ShownState where
  | standby
  | gated
  | claiming
  | powering
  | booting
  | imaging
  | finishing
  | cooldown
  | done
  | failed
  | skipped
  | localUse
  deriving DecidableEq, Repr

/-- 10.5: the sequencer state codes 1..12. -/
def ShownState.code : ShownState → Byte
  | .standby => 1
  | .gated => 2
  | .claiming => 3
  | .powering => 4
  | .booting => 5
  | .imaging => 6
  | .finishing => 7
  | .cooldown => 8
  | .done => 9
  | .failed => 10
  | .skipped => 11
  | .localUse => 12

/-- 10.5: the state a code names; 0 is NONE and is none of the twelve. -/
def ShownState.ofCode (c : Byte) : Option ShownState :=
  if c = 1 then some .standby else if c = 2 then some .gated else if c = 3 then some .claiming
  else if c = 4 then some .powering else if c = 5 then some .booting else if c = 6 then some .imaging
  else if c = 7 then some .finishing else if c = 8 then some .cooldown else if c = 9 then some .done
  else if c = 10 then some .failed else if c = 11 then some .skipped else if c = 12 then some .localUse
  else none

/-- R32: the eight mark kinds, in the order of the marks set. -/
inductive MarkKind where
  | surgeEnd
  | booted
  | compare
  | transferred
  | imaged
  | failed
  | skipped
  | localUse
  deriving DecidableEq, Repr

/-- 10.5: the mark kind codes 0..7, which are also the places of the marks set (10.3). -/
def MarkKind.index : MarkKind → Nat
  | .surgeEnd => 0
  | .booted => 1
  | .compare => 2
  | .transferred => 3
  | .imaged => 4
  | .failed => 5
  | .skipped => 6
  | .localUse => 7

/-- 10.5: a mark kind's code as a byte. -/
def MarkKind.code (k : MarkKind) : Byte := BitVec.ofNat 8 k.index

/-- 10.3: the newest code of a keep mark. -/
def keepCode : Byte := 0xFF

/-- R32, 10.3: a marks set; bit n is set for mark kind code n. -/
abbrev MarkSet := BitVec 8

/-- The set with one kind. -/
def MarkSet.single (k : MarkKind) : MarkSet := (1 : BitVec 8) <<< k.index

/-- Whether a kind is in the set. -/
def MarkSet.has (m : MarkSet) (k : MarkKind) : Bool := m.getLsbD k.index

/-- The set with a kind added. -/
def MarkSet.add (m : MarkSet) (k : MarkKind) : MarkSet := m ||| MarkSet.single k

/-! ## Sequencer -/

/-- R131: the sequencer's states; POWERING is its two sub-phases. -/
inductive SeqState where
  | standby
  | gated
  | claiming
  | awaitGood
  | settle
  | booting
  | imaging
  | finishing
  | cooldown
  | done
  | failed
  | skipped
  | localUse
  deriving DecidableEq, Repr

/-- R124: the state without its sub-phase, as a MARK carries it. -/
def SeqState.shown : SeqState → ShownState
  | .standby => .standby
  | .gated => .gated
  | .claiming => .claiming
  | .awaitGood => .powering
  | .settle => .powering
  | .booting => .booting
  | .imaging => .imaging
  | .finishing => .finishing
  | .cooldown => .cooldown
  | .done => .done
  | .failed => .failed
  | .skipped => .skipped
  | .localUse => .localUse

/-- 7.2: the terminal states. -/
def SeqState.terminal : SeqState → Bool
  | .done | .failed | .skipped | .localUse => true
  | .standby | .gated | .claiming | .awaitGood | .settle | .booting | .imaging | .finishing | .cooldown => false

/-- R134: how the night taken up stands. -/
inductive Standing where
  | running
  | held
  | closing
  | ended
  | aborted
  deriving DecidableEq, Repr

/-- R131: the outcome FINISHING will record. -/
inductive FinishOutcome where
  | done
  | closedOut
  | aborted
  deriving DecidableEq, Repr

/-- R154: the outcome values; unset is NONE. -/
inductive NightOutcome where
  | unset
  | done
  | failed
  | skipped
  | localUse
  | closedOut
  | aborted
  deriving DecidableEq, Repr

/-- R145: the finishing outcome as an outcome. -/
def FinishOutcome.outcome : FinishOutcome → NightOutcome
  | .done => .done
  | .closedOut => .closedOut
  | .aborted => .aborted

/-- 10.5: the outcome codes. -/
def NightOutcome.code : NightOutcome → Byte
  | .unset => 0
  | .done => 1
  | .failed => 2
  | .skipped => 3
  | .localUse => 4
  | .closedOut => 5
  | .aborted => 6

/-- R165: the skip reasons; absent is Option.none. -/
inductive SkipReason where
  | notParticipating
  | costExceeds
  | closed
  | aborted
  | busyPrevious
  deriving DecidableEq, Repr

/-- 10.5: the skip reason codes, 0 where it is absent. -/
def SkipReason.code : Option SkipReason → Byte
  | none => 0
  | some .notParticipating => 1
  | some .costExceeds => 2
  | some .closed => 3
  | some .aborted => 4
  | some .busyPrevious => 5

/-- R146: the causes of a failed attempt. -/
inductive Cause where
  | noPowerGood
  | powerLost
  | noFirmware
  | noProgress
  | agentFailed
  deriving DecidableEq, Repr

/-- 10.5: the cause codes, 0 for an empty place. -/
def Cause.code : Option Cause → Byte
  | none => 0
  | some .noPowerGood => 1
  | some .powerLost => 2
  | some .noFirmware => 3
  | some .noProgress => 4
  | some .agentFailed => 5

/-- R153: the boot record's action. -/
inductive BootAction where
  | none
  | wait
  | go
  | off
  deriving DecidableEq, Repr

/-- 10.5: the boot action codes. -/
def BootAction.code : BootAction → Byte
  | .none => 0
  | .wait => 1
  | .go => 2
  | .off => 3

/-- R151, R152: the press of PANEL_BUTTON under way. -/
inductive Press where
  | none
  | passing
  | held
  deriving DecidableEq, Repr

/-! ## Desktop link -/

/-- R156: the registers. -/
inductive Register where
  | view
  | index
  | station
  | data
  | events
  | eventMask
  | command
  deriving DecidableEq, Repr

/-- 10.8: the register a pointer byte names. -/
def Register.ofNumber (b : Byte) : Option Register :=
  if b = 0x10 then some .view else if b = 0x11 then some .index else if b = 0x12 then some .station
  else if b = 0x13 then some .data else if b = 0x14 then some .events else if b = 0x15 then some .eventMask
  else if b = 0x16 then some .command else none

/-- R164: the report status. -/
inductive ReportStatus where
  | none
  | accepted
  | wrongState
  | notGo
  | range
  | decreasing
  deriving DecidableEq, Repr

/-- 10.5: the report status codes. -/
def ReportStatus.code : ReportStatus → Byte
  | .none => 0
  | .accepted => 1
  | .wrongState => 2
  | .notGo => 3
  | .range => 4
  | .decreasing => 5

/-- R172, 10.8: the last-command status. -/
inductive CommandStatus where
  | none
  | done
  | refused
  | unknown
  deriving DecidableEq, Repr

/-- 10.8: the last-command status codes. -/
def CommandStatus.code : CommandStatus → Byte
  | .none => 0
  | .done => 1
  | .refused => 2
  | .unknown => 3

/-- R169: the eleven events. -/
inductive Event where
  | lineFault
  | lineStuck
  | desync
  | isolated
  | duplicateNumber
  | configFault
  | nightRunning
  | abortPosted
  | goReady
  | outcomeReady
  | reportRefused
  deriving DecidableEq, Repr

/-- R170: the clear mode. -/
inductive ClearMode where
  | readClears
  | writeClears
  deriving DecidableEq, Repr

/-! ## Configuration -/

/-- R115: the gate mode. -/
inductive GateMode where
  | free
  | afterAny
  | afterAll
  deriving DecidableEq, Repr

/-- 10.5: the gate mode a code names. -/
def GateMode.ofCode (c : Byte) : Option GateMode :=
  if c = 0 then some .free else if c = 1 then some .afterAny else if c = 2 then some .afterAll else none

/-- 10.7: the awaited mark kind a code 0..4 names. -/
def MarkKind.ofAwaitedCode (c : Byte) : Option MarkKind :=
  if c = 0 then some .surgeEnd else if c = 1 then some .booted else if c = 2 then some .compare
  else if c = 3 then some .transferred else if c = 4 then some .imaged else none

/-- R173: the loader's state. -/
inductive LoaderState where
  | reading
  | valid
  | fault
  deriving DecidableEq, Repr

/-- 10.5: the configuration state shown, VALID 1 or FAULT 2; it is not read while READING (R155). -/
def LoaderState.code : LoaderState → Byte
  | .reading => 0
  | .valid => 1
  | .fault => 2

/-! ## Membership and claims -/

/-- R46: the membership states. -/
inductive MembershipState where
  | loading
  | unconfigured
  | joining
  | collecting
  | inSync
  | desync
  | isolated
  deriving DecidableEq, Repr

/-- 10.5: the membership state codes. -/
def MembershipState.code : MembershipState → Byte
  | .loading => 0
  | .unconfigured => 1
  | .joining => 2
  | .collecting => 3
  | .inSync => 4
  | .desync => 5
  | .isolated => 6

/-- R92: the states of an active request; IDLE is the absence of one. -/
inductive RequestState where
  | ready
  | parked
  | reserving
  | granted
  deriving DecidableEq, Repr

/-- R18: the veto permission. -/
inductive Permission where
  | granted
  | withheld
  deriving DecidableEq, Repr

/-- R37, R99, R102: what became of the kind part of a delivered frame. -/
inductive Verdict where
  /-- the kind has no kind part (R43, R44) -/
  | noPart
  /-- the kind part was made; for CLAIM a grant, for PARK a placed reservation -/
  | made
  | void
  | refused
  | stale
  | blocked
  | short
  | busy
  deriving DecidableEq, Repr

/-- R95: what a re-reading of the request's pool finds. -/
inductive Reading where
  | held
  | waits
  | claims
  | parks
  deriving DecidableEq, Repr

/-- R117: the class of a used lead. -/
inductive LeadClass where
  | passed
  | out
  | waiting
  deriving DecidableEq, Repr

/-! ## Timers -/

/-- A timer: stopped, or running with the milliseconds it has left. -/
inductive Timer where
  | stopped
  | running (left : Nat)
  deriving DecidableEq, Repr

/-- Whether a timer runs. -/
def Timer.isRunning : Timer → Bool
  | .stopped => false
  | .running _ => true

/-- One millisecond passes; a timer with nothing left waits for its expiry (log 2, log 3). -/
def Timer.tick : Timer → Timer
  | .stopped => .stopped
  | .running n => .running (n - 1)

/-- R87, R166: whole seconds remaining, rounded up; 0 for a stopped count, never 0 for a running one. -/
def Timer.seconds : Timer → Nat
  | .stopped => 0
  | .running n => max 1 ((n + 999) / 1000)

/-- R120: gate patience, with the night it was started for. -/
inductive Patience where
  | stopped
  | running (left : Nat) (night : Word16)
  | elapsed (night : Word16)
  deriving DecidableEq, Repr

/-! ## Frame bodies (10.3) -/

/-- The body of a row frame, with the fields of its kind as sent. Codes that need not be legal stay bytes: the rule
that reads one judges it (10.3). -/
inductive Body where
  | order (id : Word16) (image : Word32) (start deadline : Word16) (grace capSurge capLoad capFeed : Byte)
  | night (id : Word16) (action fromState toState : Byte)
  | claim (pool units : Byte) (generation : Word16) (flags : Byte)
  | park (pool units : Byte)
  | unpark (pool : Byte)
  | release (surge load feed : Byte)
  | reclaim (target heard : Byte)
  | mark (night : Word16) (newest marks state : Byte) (progress : Word16) (attempt fill : Byte)
  | ask
  | run (asker index : Byte) (payload : List Byte)
  | unknown (kind : Byte) (bytes : List Byte)
  deriving DecidableEq, Repr

/-- R20: the eight sources, in the order of the slots (R8). -/
inductive Source where
  | order
  | night
  | claim
  | release
  | reclaim
  | mark
  | ask
  | series
  deriving DecidableEq, Repr

end Sys2Proof.Machine
end

