-- ==== Sys2Proof/Machine/State.lean ====
section
/-! DEFINITION. The state of a station as plain data: one structure for each block of the part (00_scope.md section 2)
and State over them, with the queue of waiting commands; the reasons a step can stop; the state after reset. -/

namespace Sys2Proof.Machine

/-- The reasons a step can stop with a fault. The spec gives every event a next state, so there is none: nobody
raises one. -/
inductive Fault where
  deriving DecidableEq, Repr

/-- The reasons a step can refuse. -/
inductive Refusal where
  /-- Raised only by an arm of exec whose command has no meaning yet; no arm raises it now. Safe. -/
  | notModelled (mnemonic : String)
  deriving DecidableEq, Repr

/-! ## Row Line Interface (01_the_row_line.md 1.12) -/

/-- R20: a frame in a slot, with its loss count and veto count. -/
structure Queued where
  body : Body
  loss : Nat
  veto : Nat
  deriving DecidableEq, Repr

/-- R20: a slot. While SENDING it holds the contention field built for the attempt (R6) and whether a rejoin has
cleared it (R23). -/
inductive Slot where
  | empty
  | waiting (q : Queued)
  | sending (q : Queued) (field : Word16) (cleared : Bool)
  deriving DecidableEq, Repr

/-- R20: the outbound queue. -/
structure Queue where
  order : Slot
  night : Slot
  claim : Slot
  release : Slot
  reclaim : Slot
  mark : Slot
  ask : Slot
  series : Slot
  deriving DecidableEq, Repr

/-- R22, R126: what the mark source holds back while its slot is SENDING. -/
inductive HeldMark where
  | none
  | event
  | milestone
  deriving DecidableEq, Repr

/-- The Row Line Interface, and what the sources keep for a slot that is SENDING (R22, R48). -/
structure Rli where
  queue : Queue
  collisions : Nat
  vetoRun : Nat
  permission : Permission
  stuck : Bool
  framesDelivered : Word16
  framesVetoed : Word16
  arbLosses : Word16
  rxErrors : Word16
  heldRelease : PerPool Nat
  heldMark : HeldMark
  askOwed : Bool
  deriving DecidableEq, Repr

/-! ## Row Replica (02_the_row_replica.md) -/

/-- R27: the night record. -/
structure NightRecord where
  id : Word16
  image : Word32
  state : NightState
  heldFrom : HeldFrom
  aborted : Bool
  start : Nat
  deadline : Nat
  grace : Nat
  capacities : PerPool Nat
  relayer : Nat
  deriving DecidableEq, Repr

/-- R29: one record of the pool table. -/
structure PoolRecord where
  capacity : Nat
  inUse : Nat
  generation : Word16
  reserver : Nat
  reserved : Nat
  deriving DecidableEq, Repr

/-- R32: one roster entry; state none is NONE. -/
structure Entry where
  presence : Presence
  state : Option ShownState
  marks : MarkSet
  progress : Nat
  attempt : Nat
  heard : Byte
  holds : PerPool Nat
  deriving DecidableEq, Repr

/-- R25: the replica; the roster is a list of forty entries in station-number order. -/
structure Replica where
  night : NightRecord
  pools : PerPool PoolRecord
  roster : List Entry
  deriving DecidableEq, Repr

/-! ## Membership Unit (03_membership_and_catch_up.md) -/

/-- R58, R61: the adopted series: its answerer, the next expected run, the asker field and payload of run 0, and
the payloads of the runs stored so far, run 1 first. -/
structure Adopted where
  answerer : Nat
  next : Nat
  asker : Nat
  run0 : List Byte
  runs : List (List Byte)
  deriving DecidableEq, Repr

/-- R60: the run that can be delivered just after the gap's expiry has abandoned its series: none; the next expected run
of an answerer, which clears the note of the ask wait that follows; or that run heard (log 37). -/
inductive LateRun where
  | none
  | awaited (answerer next : Nat)
  | heard
  deriving DecidableEq, Repr

/-- R59: an entry of the catch-up buffer. -/
structure BufferEntry where
  sender : Nat
  body : Body
  own : Bool
  lastRun : Nat
  age : Nat
  deriving DecidableEq, Repr

/-- R56: the answerer's snapshot. -/
structure Snapshot where
  pools : PerPool PoolRecord
  roster : List Entry
  deriving DecidableEq, Repr

/-- R55: the series watch while a series is in progress. -/
structure SeriesWatch where
  answerer : Nat
  last : Nat
  gap : Timer
  deriving DecidableEq, Repr

/-- The Membership Unit. -/
structure Member where
  state : MembershipState
  askCount : Nat
  askWait : Timer
  onlyAsks : Bool
  adopted : Option Adopted
  buffer : List BufferEntry
  seriesGap : Timer
  lateRun : LateRun
  answerPending : Bool
  askHeld : Bool
  asker : Nat
  position : Nat
  snapshot : Option Snapshot
  pause : Timer
  watch : Option SeriesWatch
  cooldown : Timer
  installAnswerer : Nat
  installAsker : Nat
  deriving DecidableEq, Repr

/-! ## Night Unit (04_night_orders.md) -/

/-- R72: the fields of an order message that its action-specific tests and its relay read. -/
structure OrderMsg where
  id : Word16
  action : OrderAction
  image : Word32
  start : Word16
  deadline : Word16
  grace : Byte
  capacities : PerPool Byte
  deriving DecidableEq, Repr

/-- The Night Unit. awaitsSilence: the order receiver takes no byte as the start of a message until it has seen a
silence of more than 5 ms (R71, R176). -/
structure NightUnit where
  awaitsSilence : Bool
  rxBytes : List Byte
  rxCount : Nat
  accepted : Word16
  rejected : Word16
  lastReason : RejectReason
  lastId : Word16
  relay : Option OrderMsg
  start : Timer
  deadline : Timer
  grace : Timer
  startDue : Bool
  deadlineDue : Bool
  graceDue : Bool
  deriving DecidableEq, Repr

/-! ## Claim Engine (R92) -/

/-- R92: an active request. -/
structure Request where
  pool : Pool
  units : Nat
  patience : Nat
  restore : Bool
  state : RequestState
  deriving DecidableEq, Repr

/-- The Claim Engine. -/
structure ClaimEngine where
  request : Option Request
  deferred : Option (Pool × Nat)
  ownHolds : PerPool Nat
  ownReservation : Option Pool
  owed : PerPool Bool
  keep : Timer
  claimAge : Timer
  ageExpired : Bool
  watching : Bool
  orphan : Bool
  unparkDue : PerPool Bool
  deriving DecidableEq, Repr

/-! ## Gate and Mark Unit (6.8) -/

/-- The gate, gate patience, the emitted-marks set and the pending newest. -/
structure GateMark where
  isOpen : Bool
  night : Word16
  patience : Patience
  emitted : MarkSet
  emittedNight : Word16
  newest : Option MarkKind
  deriving DecidableEq, Repr

/-! ## Bring-Up Sequencer (R131, R154) -/

/-- R154: the outcome record. -/
structure OutcomeRecord where
  night : Word16
  outcome : NightOutcome
  late : Bool
  skip : Option SkipReason
  used : Nat
  causes : List Cause
  noShutdown : Bool
  finalProgress : Nat
  deriving DecidableEq, Repr

/-- The Bring-Up Sequencer, with the two power lines it drives (DESK_BUTTON follows from wake and press). -/
structure Sequencer where
  state : SeqState
  night : Word16
  standing : Standing
  newerNight : Bool
  attempt : Nat
  progress : Nat
  contact : Bool
  finish : FinishOutcome
  image : Word32
  go : Bool
  transferDone : Bool
  wake : Timer
  good : Timer
  settle : Timer
  contactTimer : Timer
  progressTimer : Timer
  shutdown : Timer
  cooldown : Timer
  pressTimer : Timer
  press : Press
  swallowed : Nat
  outcome : OutcomeRecord
  permit : Bool
  deriving DecidableEq, Repr

/-- R129: the levels of the three power inputs. -/
structure Pins where
  supplyReq : Bool
  powerGood : Bool
  panelButton : Bool
  deriving DecidableEq, Repr

/-! ## Desktop Link Port (8.8) -/

/-- The Desktop Link Port. EVENTS holds its first byte in bits 15..8 and its second in bits 7..0 (10.8). writing: a
write transaction at the port's address is under way and is not ignored (R155). commandDone: a command has been taken in
the write transaction last begun, whose further bytes are ignored (R155, R172). busByte and busAck are what the port
answered to the last bus event (log 7). -/
structure LinkPort where
  pointer : Register
  writing : Bool
  commandDone : Bool
  view : Nat
  index : Nat
  station : Nat
  capture : Option (List Byte)
  report : List Byte
  reportStatus : ReportStatus
  events : Word16
  mask : Byte
  eventsCopy : Option Word16
  raisedSince : Word16
  lastCode : Byte
  lastStatus : CommandStatus
  probeEcho : Byte
  probeCount : Byte
  probePending : Bool
  address : Byte
  clearMode : ClearMode
  busByte : Option Byte
  busAck : Bool
  deriving DecidableEq, Repr

/-! ## Configuration Loader (chapter 9) -/

/-- The Configuration Loader. -/
structure Loader where
  state : LoaderState
  readLimit : Timer
  image : List Byte
  deriving DecidableEq, Repr

/-- R174, R176: the settings handed to the blocks at a VALID verdict, stored once. -/
structure Settings where
  station : Nat
  rowTag : Word16
  cost : PerPool Nat
  retryLimit : Nat
  gateMode : GateMode
  awaited : MarkKind
  leads : List Nat
  compare : Nat
  participates : Bool
  deriving DecidableEq, Repr

/-! ## State -/

/-- A station. pending is the queue of commands that wait, the first to be taken first; freeCount is the model's own
counter for free values (log 8). lastHeard holds the last-heard ages (R35) in milliseconds; heardAge gives their whole
seconds. -/
structure State where
  rli : Rli
  replica : Replica
  lastHeard : List Nat
  member : Member
  night : NightUnit
  claim : ClaimEngine
  gate : GateMark
  seq : Sequencer
  pins : Pins
  link : LinkPort
  loader : Loader
  cfg : Settings
  freeCount : Nat
  pending : List Instr
  deriving DecidableEq, Repr

/-! ## Cold values -/

/-- R27: the cold night record. -/
def NightRecord.cold : NightRecord :=
  { id := 0, image := 0, state := .idle, heldFrom := .pending, aborted := false, start := 0, deadline := 0,
    grace := 0, capacities := PerPool.all 0, relayer := 0 }

/-- R29: a cold pool record. -/
def PoolRecord.cold : PoolRecord := { capacity := 0, inUse := 0, generation := 0, reserver := 0, reserved := 0 }

/-- R32: a cold roster entry. -/
def Entry.cold : Entry :=
  { presence := .unknown, state := none, marks := 0, progress := 0, attempt := 0, heard := 0,
    holds := PerPool.all 0 }

/-- R25: the cold replica, written by clearing. -/
def Replica.cold : Replica :=
  { night := NightRecord.cold, pools := PerPool.all PoolRecord.cold, roster := List.replicate Config.stations Entry.cold }

/-- R20: the queue after cold start. -/
def Queue.cold : Queue :=
  { order := .empty, night := .empty, claim := .empty, release := .empty, reclaim := .empty, mark := .empty,
    ask := .empty, series := .empty }

/-- 1.12: the Row Line Interface after cold start. -/
def Rli.cold : Rli :=
  { queue := Queue.cold, collisions := 0, vetoRun := 0, permission := .granted, stuck := false,
    framesDelivered := 0, framesVetoed := 0, arbLosses := 0, rxErrors := 0, heldRelease := PerPool.all 0,
    heldMark := .none, askOwed := false }

/-- 3.9: the Membership Unit after cold start. -/
def Member.cold : Member :=
  { state := .loading, askCount := 0, askWait := .stopped, onlyAsks := false, adopted := none, buffer := [],
    seriesGap := .stopped, lateRun := .none, answerPending := false, askHeld := false, asker := 0, position := 0,
    snapshot := none, pause := .stopped, watch := none, cooldown := .stopped, installAnswerer := 0, installAsker := 0 }

/-- R75, R83: the Night Unit after cold start. -/
def NightUnit.cold : NightUnit :=
  { awaitsSilence := false, rxBytes := [], rxCount := 0, accepted := 0, rejected := 0, lastReason := .none,
    lastId := 0, relay := none, start := .stopped, deadline := .stopped, grace := .stopped, startDue := false,
    deadlineDue := false, graceDue := false }

/-- R92: the Claim Engine after cold start. -/
def ClaimEngine.cold : ClaimEngine :=
  { request := none, deferred := none, ownHolds := PerPool.all 0, ownReservation := none, owed := PerPool.all false,
    keep := .stopped, claimAge := .stopped, ageExpired := false, watching := false, orphan := false,
    unparkDue := PerPool.all false }

/-- 6.8: the Gate and Mark Unit after cold start. -/
def GateMark.cold : GateMark :=
  { isOpen := false, night := 0, patience := .stopped, emitted := 0, emittedNight := 0, newest := none }

/-- R154: the outcome record of a night, as a replacement leaves it; for night 0, as cold start leaves it. -/
def OutcomeRecord.fresh (night : Word16) : OutcomeRecord :=
  { night := night, outcome := .unset, late := false, skip := none, used := 0, causes := [], noShutdown := false,
    finalProgress := 0 }

/-- R131, R132: the sequencer after cold start, by the level of POWER_GOOD. -/
def Sequencer.cold (powerGood : Bool) : Sequencer :=
  { state := if powerGood then .localUse else .standby, night := 0, standing := .running, newerNight := false,
    attempt := 0, progress := 0, contact := false, finish := .done, image := 0, go := false, transferDone := false,
    wake := .stopped, good := .stopped, settle := .stopped, contactTimer := .stopped, progressTimer := .stopped,
    shutdown := .stopped, cooldown := .stopped, pressTimer := .stopped, press := .none, swallowed := 0,
    outcome := OutcomeRecord.fresh 0, permit := true }

/-- 8.8: the Desktop Link Port after cold start. The pointer is DATA from the end of LOADING (R155); that it is DATA
before then, when nothing reads it, is the model's choice (log 6). -/
def LinkPort.cold : LinkPort :=
  { pointer := .data, writing := false, commandDone := false, view := 0, index := 0, station := 1, capture := none,
    report := [], reportStatus := .none, events := 0, mask := 0x1F, eventsCopy := none, raisedSince := 0, lastCode := 0,
    lastStatus := .none, probeEcho := 0, probeCount := 0, probePending := false, address := 0,
    clearMode := .readClears, busByte := none, busAck := false }

/-- R173: the loader at cold start. -/
def Loader.cold : Loader := { state := .reading, readLimit := .running Config.readLimit, image := [] }

/-- Log 6: the settings before the hand-off, and of an UNCONFIGURED station (R177 shows number 0 and row tag 0). -/
def Settings.blank : Settings :=
  { station := 0, rowTag := 0, cost := PerPool.all 0, retryLimit := 0, gateMode := .free, awaited := .surgeEnd,
    leads := [0, 0, 0, 0], compare := 0, participates := false }

/-- Cold start (R173, R131 and each chapter's table) over the levels of the power inputs; the queue of waiting
commands is the world's and is given. -/
def State.cold (pins : Pins) (pending : List Instr) : State :=
  { rli := Rli.cold, replica := Replica.cold, lastHeard := List.replicate Config.stations 0, member := Member.cold,
    night := NightUnit.cold, claim := ClaimEngine.cold, gate := GateMark.cold, seq := Sequencer.cold pins.powerGood,
    pins := pins, link := LinkPort.cold, loader := Loader.cold, cfg := Settings.blank, freeCount := 0,
    pending := pending }

/-- The station right after reset: cold start with the three power inputs deasserted (DESIGN CHOICE, log 5) and no
command waiting. -/
def State.reset : State := State.cold ⟨false, false, false⟩ []

/-! ## Writing one block -/

def State.setRli (s : State) (x : Rli) : State := { s with rli := x }
def State.setReplica (s : State) (x : Replica) : State := { s with replica := x }
def State.setLastHeard (s : State) (x : List Nat) : State := { s with lastHeard := x }
def State.setMember (s : State) (x : Member) : State := { s with member := x }
def State.setNight (s : State) (x : NightUnit) : State := { s with night := x }
def State.setClaim (s : State) (x : ClaimEngine) : State := { s with claim := x }
def State.setGate (s : State) (x : GateMark) : State := { s with gate := x }
def State.setSeq (s : State) (x : Sequencer) : State := { s with seq := x }
def State.setPins (s : State) (x : Pins) : State := { s with pins := x }
def State.setLink (s : State) (x : LinkPort) : State := { s with link := x }
def State.setLoader (s : State) (x : Loader) : State := { s with loader := x }
def State.setCfg (s : State) (x : Settings) : State := { s with cfg := x }
def State.setFreeCount (s : State) (x : Nat) : State := { s with freeCount := x }
def State.setPending (s : State) (x : List Instr) : State := { s with pending := x }

end Sys2Proof.Machine
end

