-- ==== Sys2Proof/WellFormed.lean ====
section
/-! DEFINITION. Which commands are well formed: the checks on operands that the spec's own description of the event
gives. An ill-formed term is no event of the table; exec leaves the state as it is for one, or treats it as the event
its operands describe (log 1, log 10, log 24). -/

namespace Sys2Proof

/-- R3: the number of groups a frame with this length byte has from the contention field through the check; a length
above 24 is framed as 24 body bytes (R11). -/
def groupCount (length : Byte) : Nat := 6 + min length.toNat Config.maxBody

/-- R3, R11: the groups of a whole frame: the fourth is the length and fixes how many there are. -/
def LineFrame.wellFormed : LineFrame → Bool
  | .own => true
  | .heard groups =>
    match groups with
    | _ :: _ :: _ :: l :: _ => groups.length == groupCount l.byte
    | _ => false

/-- The well-formedness of a command's operands. -/
def Instr.wellFormed : Instr → Bool
  | .configReadDone block => block.length == Config.blockLength
  | .frameDelivered f => f.wellFormed
  | .frameVetoed f => f.wellFormed
  | .orderMessage line => !line.bytes.isEmpty
  | .unknownCommand code _ => !(code == 0x01 || code == 0x02)
  | .coldStart _ _ _ | .readLimitExpiry | .attemptStart | .lostArbitration | .collision | .lostFraming
  | .stuckLine | .stuckLineClear | .pointerWrite _ _ | .viewWrite _ | .indexWrite _ | .stationWrite _
  | .dataRead _ | .dataWrite _ | .eventsRead _ _ | .eventsWrite _ _ | .eventMaskWrite _ _ | .rejoin _ | .probe _
  | .powerGoodRise | .powerGoodFall | .supplyReqRelease | .pressBegin | .pressEnd | .pressTimerExpiry
  | .askWaitExpiry | .seriesGapExpiry | .seriesWatchGapExpiry | .seriesPauseEnd | .isolatedCooldownExpiry
  | .nightCountExpiry _ | .run0SecondTick | .lastHeardTick | .claimAgeExpiry | .keepTimerExpiry
  | .gatePatienceExpiry | .wakePulseEnd | .goodLimitExpiry | .settleExpiry | .contactTimerExpiry
  | .progressTimerExpiry | .shutdownTimerExpiry | .cooldownExpiry _ => true

end Sys2Proof
end

