-- ==== Sys2Proof/Machine/Operands.lean ====
section
/-! DEFINITION. The formats of chapter 10 as functions: byte order and the check (R179), groups and spacers (R2), row
frames and bodies (R3, R11, 10.2, 10.3), catch-up payloads (R180), order messages (10.6), the configuration block
(10.7). -/

namespace Sys2Proof.Machine

/-! ## Byte order and the check (R179) -/

/-- R179: the high byte of a two-byte field, laid out first. -/
def hi8 (w : Word16) : Byte := w.extractLsb' 8 8

/-- R179: the low byte of a two-byte field. -/
def lo8 (w : Word16) : Byte := w.extractLsb' 0 8

/-- R179: a two-byte field from its bytes, most significant first. -/
def be16 (a b : Byte) : Word16 := a ++ b

/-- R179: a four-byte field from its bytes, most significant first. -/
def be32 (a b c d : Byte) : Word32 := (be16 a b) ++ (be16 c d)

/-- R179: the two bytes of a field. -/
def bytes16 (w : Word16) : List Byte := [hi8 w, lo8 w]

/-- R179: the four bytes of the image id. -/
def bytes32 (w : Word32) : List Byte :=
  [w.extractLsb' 24 8, w.extractLsb' 16 8, w.extractLsb' 8 8, w.extractLsb' 0 8]

/-- A count as one byte. -/
def byteOf (n : Nat) : Byte := BitVec.ofNat 8 n

/-- A count as a two-byte field. -/
def wordOf (n : Nat) : Word16 := BitVec.ofNat 16 n

/-- 10.5: a flag shown as a byte. -/
def flagByte (b : Bool) : Byte := if b then 1 else 0

/-- R179, steps 3 and 4: one data bit enters the check register. -/
def crcBit (r : Word16) (bit : Bool) : Word16 :=
  if r.msb ^^ bit then (r <<< 1) ^^^ 0x1021 else r <<< 1

/-- R179, step 2: the bits of a byte are taken from bit 7 to bit 0. -/
def crcByte (r : Word16) (b : Byte) : Word16 :=
  [7, 6, 5, 4, 3, 2, 1, 0].foldl (fun r i => crcBit r (b.getLsbD i)) r

/-- R179: the check over bytes in the order given. -/
def crc (bytes : List Byte) : Word16 := bytes.foldl crcByte 0xFFFF

/-! ## Groups and spacers (R1, R2) -/

/-- R1: a bit of value 0 is sent as dominant and a bit of value 1 as recessive. -/
def levelOf (bit : Bool) : Level := if bit then .recessive else .dominant

/-- R2: the spacer's level is the opposite of the level of the group's last bit. -/
def requiredSpacer (b : Byte) : Level := if b.getLsbD 0 then .dominant else .recessive

/-- R2: a group as a transmitter sends it. -/
def sentGroup (b : Byte) : Group := { byte := b, spacer := requiredSpacer b }

/-- R2, R11: a spacer read dominant where recessive was required. -/
def spacerBad (g : Group) : Bool := requiredSpacer g.byte == .recessive && g.spacer == .dominant

/-- R2, R12: a spacer read recessive where dominant was required: no station drives the frame any longer. -/
def spacerLost (g : Group) : Bool := requiredSpacer g.byte == .dominant && g.spacer == .recessive

/-- R1, R2: the nine levels of a group, most significant bit first, then the spacer. -/
def groupLevels (g : Group) : List Level :=
  [7, 6, 5, 4, 3, 2, 1, 0].map (fun i => levelOf (g.byte.getLsbD i)) ++ [g.spacer]

/-- R3: the levels of a frame from its start bit through the last spacer of the check. -/
def frameLevels (groups : List Group) : List Level := .dominant :: groups.flatMap groupLevels

/-! ## Kinds (R11, 10.2, 10.3) -/

/-- 10.2: the kind code of a body. -/
def Body.kind : Body → Byte
  | .order .. => 0x11
  | .night .. => 0x12
  | .claim .. => 0x21
  | .park .. => 0x22
  | .unpark .. => 0x23
  | .release .. => 0x24
  | .reclaim .. => 0x25
  | .mark .. => 0x31
  | .ask => 0x41
  | .run .. => 0x42
  | .unknown k _ => k

/-- R6, 10.2: the class of a known kind. -/
def kindClass (k : Byte) : Option Nat :=
  if k = 0x42 then some 0
  else if k = 0x11 ∨ k = 0x12 then some 1
  else if k = 0x24 ∨ k = 0x25 ∨ k = 0x41 then some 2
  else if k = 0x21 ∨ k = 0x22 ∨ k = 0x23 ∨ k = 0x31 then some 3
  else none

/-- R11: the body length of STATE_RUN by run index; an index above 21 has none. -/
def runLength (index : Nat) : Option Nat :=
  if index = 0 then some 19 else if index = 1 then some 20 else if index ≤ 21 then some 24 else none

/-- R11: the length of a known kind's body is that kind's; for STATE_RUN the second body byte is the run index. -/
def bodyLengthOk (k : Byte) (body : List Byte) : Bool :=
  if k = 0x11 then body.length == 14
  else if k = 0x12 then body.length == 5
  else if k = 0x21 then body.length == 5
  else if k = 0x22 then body.length == 2
  else if k = 0x23 then body.length == 1
  else if k = 0x24 then body.length == 3
  else if k = 0x25 then body.length == 2
  else if k = 0x31 then body.length == 9
  else if k = 0x41 then body.length == 0
  else if k = 0x42 then
    match body with
    | _ :: index :: _ => runLength index.toNat == some body.length
    | _ => false
  else true

/-- 10.3: the bytes of a body. -/
def Body.bytes : Body → List Byte
  | .order id image start deadline grace cs cl cf =>
    bytes16 id ++ bytes32 image ++ bytes16 start ++ bytes16 deadline ++ [grace, cs, cl, cf]
  | .night id a f t => bytes16 id ++ [a, f, t]
  | .claim p u g fl => [p, u] ++ bytes16 g ++ [fl]
  | .park p u => [p, u]
  | .unpark p => [p]
  | .release s l f => [s, l, f]
  | .reclaim t h => [t, h]
  | .mark n newest marks st prog att fill => bytes16 n ++ [newest, marks, st] ++ bytes16 prog ++ [att, fill]
  | .ask => []
  | .run asker index payload => asker :: index :: payload
  | .unknown _ b => b

/-- 10.3: the body that bytes of a kind spell. A kind outside the table is unknown (R43); so are bytes of a length
that is not the kind's, which a receiver finds malformed before this reads them. -/
def readBody (k : Byte) (bytes : List Byte) : Body :=
  if k = 0x11 then
    match bytes with
    | [a, b, i3, i2, i1, i0, s1, s0, d1, d0, g, cs, cl, cf] =>
      .order (be16 a b) (be32 i3 i2 i1 i0) (be16 s1 s0) (be16 d1 d0) g cs cl cf
    | _ => .unknown k bytes
  else if k = 0x12 then
    match bytes with
    | [a, b, act, f, t] => .night (be16 a b) act f t
    | _ => .unknown k bytes
  else if k = 0x21 then
    match bytes with
    | [p, u, g1, g0, fl] => .claim p u (be16 g1 g0) fl
    | _ => .unknown k bytes
  else if k = 0x22 then
    match bytes with
    | [p, u] => .park p u
    | _ => .unknown k bytes
  else if k = 0x23 then
    match bytes with
    | [p] => .unpark p
    | _ => .unknown k bytes
  else if k = 0x24 then
    match bytes with
    | [s, l, f] => .release s l f
    | _ => .unknown k bytes
  else if k = 0x25 then
    match bytes with
    | [t, h] => .reclaim t h
    | _ => .unknown k bytes
  else if k = 0x31 then
    match bytes with
    | [a, b, nw, m, st, p1, p0, att, fill] => .mark (be16 a b) nw m st (be16 p1 p0) att fill
    | _ => .unknown k bytes
  else if k = 0x41 then
    match bytes with
    | [] => .ask
    | _ => .unknown k bytes
  else if k = 0x42 then
    match bytes with
    | asker :: index :: payload => .run asker index payload
    | _ => .unknown k bytes
  else .unknown k bytes

/-! ## Contention field (R6) -/

/-- R6: class × 16384 + wait × 256 + station number. -/
def contentionField (cls wait station : Nat) : Word16 := wordOf (cls * 16384 + wait * 256 + station)

/-- R3: the groups of a frame from the contention field through the check, as a transmitter sends them. -/
def wireGroups (field : Word16) (body : Body) : List Group :=
  let covered := bytes16 field ++ [body.kind, byteOf body.bytes.length] ++ body.bytes
  (covered ++ bytes16 (crc covered)).map sentGroup

/-! ## Reception (R11, R12) -/

/-- What a receiver makes of the groups of a frame. -/
inductive Reception where
  /-- the groups are not those of a whole frame: no frame has ended -/
  | incomplete
  /-- R12 -/
  | lost
  /-- R11 -/
  | malformed
  | whole (sender : Nat) (body : Body)
  deriving DecidableEq, Repr

/-- R11: the tests of a receiver over the parts of a frame, spacers apart. -/
def frameMalformed (c0 c1 k l : Byte) (body : List Byte) (check : Word16) : Bool :=
  c1.toNat == 0 || decide (Config.stations < c1.toNat) || decide (Config.maxBody < l.toNat)
    || (match kindClass k with
        | some cls => cls != (c0 >>> 6).toNat || !bodyLengthOk k body
        | none => false)
    || crc ([c0, c1, k, l] ++ body) != check

/-- R11, R12: what a receiver makes of the groups it read from the contention field through the check. -/
def receive (groups : List Group) : Reception :=
  match groups with
  | c0 :: c1 :: k :: l :: rest =>
    if groups.length ≠ groupCount l.byte then .incomplete
    else if groups.any spacerLost then .lost
    else
      let data := rest.map Group.byte
      let n := min l.byte.toNat Config.maxBody
      let body := data.take n
      match data.drop n with
      | [k1, k0] =>
        if groups.any spacerBad || frameMalformed c0.byte c1.byte k.byte l.byte body (be16 k1 k0) then .malformed
        else .whole c1.byte.toNat (readBody k.byte body)
      | _ => .incomplete
  | _ => .incomplete

/-! ## Catch-up payloads (R180) -/

/-- R180, offset 6 of run 0: night state, held-from, aborted flag and the three due flags. -/
def nightStatus (n : NightRecord) (startDue deadlineDue graceDue : Bool) : Byte :=
  n.state.code ||| (if n.heldFrom = .running then 0x08 else 0) ||| (if n.aborted then 0x10 else 0)
    ||| (if startDue then 0x20 else 0) ||| (if deadlineDue then 0x40 else 0) ||| (if graceDue then 0x80 else 0)

/-- R180: the payload of run 0, with counts A and B and the due flags (R87). -/
def run0Payload (n : NightRecord) (u : NightUnit) : List Byte :=
  let a := if n.state = .closing then u.grace.seconds else u.start.seconds
  let b := if n.state = .closing then 0 else u.deadline.seconds
  bytes16 n.id ++ bytes32 n.image ++ [nightStatus n u.startDue u.deadlineDue u.graceDue, byteOf n.relayer]
    ++ bytes16 (wordOf n.start) ++ bytes16 (wordOf n.deadline) ++ [byteOf n.grace]
    ++ bytes16 (wordOf a) ++ bytes16 (wordOf b)

/-- R180: the six bytes of a pool record. -/
def poolBytes (p : PoolRecord) : List Byte :=
  [byteOf p.capacity, byteOf p.inUse] ++ bytes16 p.generation ++ [byteOf p.reserver, byteOf p.reserved]

/-- R180: the payload of run 1, which is also the pool table of the row summary (10.9). -/
def poolTableBytes (t : PerPool PoolRecord) : List Byte :=
  poolBytes t.surge ++ poolBytes t.load ++ poolBytes t.feed

/-- R180: the state code of an entry, 0 for NONE. -/
def rosterStateCode : Option ShownState → Byte
  | none => 0
  | some st => st.code

/-- R180: the eleven bytes of a roster entry. -/
def entryBytes (station : Nat) (e : Entry) : List Byte :=
  [byteOf station, e.presence.code, rosterStateCode e.state, e.marks] ++ bytes16 (wordOf e.progress)
    ++ [byteOf e.attempt, e.heard, byteOf e.holds.surge, byteOf e.holds.load, byteOf e.holds.feed]

/-- A roster's entry by station number; a number outside 1..40 has none and reads as a cold entry. -/
def rosterEntry (roster : List Entry) (n : Nat) : Entry :=
  match n with
  | 0 => Entry.cold
  | k + 1 => roster.getD k Entry.cold

/-- R57, R180: the payload of run k from the answerer's snapshot, for k in 1..21. -/
def runPayload (snap : Snapshot) (k : Nat) : List Byte :=
  if k = 1 then poolTableBytes snap.pools
  else entryBytes (2 * k - 3) (rosterEntry snap.roster (2 * k - 3))
    ++ entryBytes (2 * k - 2) (rosterEntry snap.roster (2 * k - 2))

/-- Byte i of a list, 0 past its end; the lists it reads have the length their format gives. -/
def byteAt (bytes : List Byte) (i : Nat) : Byte := bytes.getD i 0

/-- The two-byte field at an offset. -/
def wordAt (bytes : List Byte) (i : Nat) : Word16 := be16 (byteAt bytes i) (byteAt bytes (i + 1))

/-- R180: the night state in bits 2..0 of the status byte; codes 6 and 7 name none (free value, log 8). -/
def readNightState (free : Nat) (status : Byte) : NightState :=
  match NightState.ofCode (status &&& 0x07) with
  | some st => st
  | none => (NightState.ofCode (byteOf (Config.freeNightState free).val)).getD .idle

/-- R180: the night record from run 0, with the capacities from the pool table of run 1. -/
def readNightRecord (free : Nat) (run0 : List Byte) (pools : PerPool PoolRecord) : NightRecord :=
  let status := byteAt run0 6
  { id := wordAt run0 0
    image := be32 (byteAt run0 2) (byteAt run0 3) (byteAt run0 4) (byteAt run0 5)
    state := readNightState free status
    heldFrom := if status.getLsbD 3 then .running else .pending
    aborted := status.getLsbD 4
    start := (wordAt run0 8).toNat
    deadline := (wordAt run0 10).toNat
    grace := (byteAt run0 12).toNat
    capacities := pools.map PoolRecord.capacity
    relayer := (byteAt run0 7).toNat }

/-- R180: a pool record from its six bytes at an offset. -/
def readPool (bytes : List Byte) (i : Nat) : PoolRecord :=
  { capacity := (byteAt bytes i).toNat
    inUse := (byteAt bytes (i + 1)).toNat
    generation := wordAt bytes (i + 2)
    reserver := (byteAt bytes (i + 4)).toNat
    reserved := (byteAt bytes (i + 5)).toNat }

/-- R180: the pool table from run 1. -/
def readPools (run1 : List Byte) : PerPool PoolRecord := ⟨readPool run1 0, readPool run1 6, readPool run1 12⟩

/-- R180: a presence code; a code above 2 names none (free value, log 8). -/
def readPresence (free station : Nat) (c : Byte) : Presence :=
  if c = 0 then .unknown else if c = 1 then .present else if c = 2 then .silent
  else if (Config.freePresence free station).val = 0 then .unknown
  else if (Config.freePresence free station).val = 1 then .present else .silent

/-- R180: a roster state code, 0 for NONE; a code above 12 names none of the thirteen (free value, log 8). -/
def readRosterState (free station : Nat) (c : Byte) : Option ShownState :=
  if c = 0 then none
  else match ShownState.ofCode c with
    | some st => some st
    | none => ShownState.ofCode (byteOf (Config.freeRosterState free station).val)

/-- R180: a roster entry from its eleven bytes at an offset. -/
def readEntry (free station : Nat) (bytes : List Byte) (i : Nat) : Entry :=
  { presence := readPresence free station (byteAt bytes (i + 1))
    state := readRosterState free station (byteAt bytes (i + 2))
    marks := byteAt bytes (i + 3)
    progress := (wordAt bytes (i + 4)).toNat
    attempt := (byteAt bytes (i + 6)).toNat
    heard := byteAt bytes (i + 7)
    holds := ⟨(byteAt bytes (i + 8)).toNat, (byteAt bytes (i + 9)).toNat, (byteAt bytes (i + 10)).toNat⟩ }

/-- R62, R180: roster entries from runs 2, 3, … in order, two a run. -/
def readRoster (free : Nat) (k : Nat) : List (List Byte) → List Entry
  | [] => []
  | run :: rest =>
    readEntry free (2 * k - 3) run 0 :: readEntry free (2 * k - 2) run 11 :: readRoster free (k + 1) rest

/-- R60, R180: the station-number bytes of run k are 2k−3 and 2k−2. -/
def runNumbersOk (k : Nat) (payload : List Byte) : Bool :=
  decide (k < 2) || ((byteAt payload 0).toNat == 2 * k - 3 && (byteAt payload 11).toNat == 2 * k - 2)

/-! ## Order message (10.6) -/

/-- 10.6: the order id of a message. -/
def messageId (m : List Byte) : Word16 := wordAt m 4

/-- 10.6: the fields of a message with this action. -/
def readOrder (m : List Byte) (action : OrderAction) : OrderMsg :=
  { id := messageId m
    action := action
    image := be32 (byteAt m 7) (byteAt m 8) (byteAt m 9) (byteAt m 10)
    start := wordAt m 11
    deadline := wordAt m 13
    grace := byteAt m 15
    capacities := ⟨byteAt m 16, byteAt m 17, byteAt m 18⟩ }

/-- R179: the check covers every byte after the sync and before the check. -/
def messageCheckOk (m : List Byte) : Bool := crc ((m.drop 2).take 17) == wordAt m 19

/-! ## Configuration block (10.7) -/

/-- R175: the nine tests over a block read in full. -/
def blockValid (b : List Byte) : Bool :=
  byteAt b 0 == Config.formatMarker
    && crc (b.take 18) == wordAt b 18
    && (decide (1 ≤ (byteAt b 1).toNat) && decide ((byteAt b 1).toNat ≤ Config.stations))
    && (decide (0x08 ≤ (byteAt b 4).toNat) && decide ((byteAt b 4).toNat ≤ 0x77))
    && (decide (1 ≤ (byteAt b 5).toNat) && decide ((byteAt b 5).toNat ≤ 15)
        && decide (1 ≤ (byteAt b 6).toNat) && decide ((byteAt b 6).toNat ≤ 15)
        && decide (1 ≤ (byteAt b 7).toNat) && decide ((byteAt b 7).toNat ≤ 4))
    && decide ((byteAt b 8).toNat ≤ 3)
    && ((GateMode.ofCode (byteAt b 9)).isSome && (MarkKind.ofAwaitedCode (byteAt b 10)).isSome)
    && [11, 12, 13, 14].all (fun i => decide ((byteAt b i).toNat ≤ Config.stations))
    && decide ((wordAt b 15).toNat ≤ Config.maxProgress)

/-- R174, 10.7: the settings of a valid block. -/
def readSettings (b : List Byte) : Settings :=
  { station := (byteAt b 1).toNat
    rowTag := wordAt b 2
    cost := ⟨(byteAt b 5).toNat, (byteAt b 6).toNat, (byteAt b 7).toNat⟩
    retryLimit := (byteAt b 8).toNat
    gateMode := (GateMode.ofCode (byteAt b 9)).getD .free
    awaited := (MarkKind.ofAwaitedCode (byteAt b 10)).getD .surgeEnd
    leads := [(byteAt b 11).toNat, (byteAt b 12).toNat, (byteAt b 13).toNat, (byteAt b 14).toNat]
    compare := (wordAt b 15).toNat
    participates := (byteAt b 17).getLsbD 0 }

/-- 10.7: the clear mode in bit 1 of the flags. -/
def readClearMode (b : List Byte) : ClearMode := if (byteAt b 17).getLsbD 1 then .writeClears else .readClears

end Sys2Proof.Machine
end

