-- ==== Sys2Proof/Machine/Ops.lean ====
section
/-! DEFINITION. The named operations over the outbound queue (R20 to R23) and the roster, the comparison of order ids
(R74), and what one idle millisecond does to the timers (log 2). -/

namespace Sys2Proof.Machine

/-! ## The outbound queue (R20 to R23) -/

/-- R20: the slot of a source. -/
def Queue.get (q : Queue) : Source → Slot
  | .order => q.order
  | .night => q.night
  | .claim => q.claim
  | .release => q.release
  | .reclaim => q.reclaim
  | .mark => q.mark
  | .ask => q.ask
  | .series => q.series

/-- R20: the queue with one source's slot replaced. -/
def Queue.set (q : Queue) (src : Source) (x : Slot) : Queue :=
  match src with
  | .order => { q with order := x }
  | .night => { q with night := x }
  | .claim => { q with claim := x }
  | .release => { q with release := x }
  | .reclaim => { q with reclaim := x }
  | .mark => { q with mark := x }
  | .ask => { q with ask := x }
  | .series => { q with series := x }

/-- R8: the sources in the order of their slots. -/
def Source.all : List Source := [.order, .night, .claim, .release, .reclaim, .mark, .ask, .series]

/-- R21: a frame as it is taken into an EMPTY slot. -/
def fresh (b : Body) : Slot := .waiting { body := b, loss := 0, veto := 0 }

/-- The slot of a source. -/
def State.slot (s : State) (src : Source) : Slot := s.rli.queue.get src

/-- The state with a source's slot replaced. -/
def State.setSlot (s : State) (src : Source) (x : Slot) : State :=
  s.setRli { s.rli with queue := s.rli.queue.set src x }

/-- R21: a placing is taken into an EMPTY slot and refused by an occupied one. -/
def place (src : Source) (b : Body) (s : State) : State :=
  match s.slot src with
  | .empty => s.setSlot src (fresh b)
  | .waiting _ => s
  | .sending _ _ _ => s

/-- R23: a source withdraws its frame when the slot is WAITING; a SENDING frame runs on. -/
def withdraw (src : Source) (s : State) : State :=
  match s.slot src with
  | .waiting _ => s.setSlot src .empty
  | .empty => s
  | .sending _ _ _ => s

/-- Whether a slot is WAITING. -/
def Slot.isWaiting : Slot → Bool
  | .waiting _ => true
  | .empty | .sending _ _ _ => false

/-- Whether a slot is SENDING. -/
def Slot.isSending : Slot → Bool
  | .sending _ _ _ => true
  | .empty | .waiting _ => false

/-- The frame a slot holds. -/
def Slot.body : Slot → Option Body
  | .empty => none
  | .waiting q => some q.body
  | .sending q _ _ => some q.body

/-- R8: a station has one transmitter; the source whose slot is SENDING, if any. -/
def Queue.sendingSource (q : Queue) : Option Source := Source.all.find? (fun src => (q.get src).isSending)

/-- The source whose slot is SENDING in a state. -/
def State.sendingSource (s : State) : Option Source := s.rli.queue.sendingSource

/-! ## Roster and ages -/

/-- R32: the roster with one station's entry changed; a number outside 1..40 has no entry. -/
def rosterModify (roster : List Entry) (n : Nat) (f : Entry → Entry) : List Entry :=
  match n with
  | 0 => roster
  | k + 1 => roster.modify k f

/-- The replica's entry of a station. -/
def Replica.entry (r : Replica) (n : Nat) : Entry := rosterEntry r.roster n

/-- R35: the milliseconds of a last-heard age by station number. -/
def heardMs (ages : List Nat) (n : Nat) : Nat :=
  match n with
  | 0 => 0
  | k + 1 => ages.getD k 0

/-- R35: a last-heard age: whole seconds. -/
def heardAge (ages : List Nat) (n : Nat) : Nat := heardMs ages n / 1000

/-- R35: every age some milliseconds on; an age stops at 65535 s. -/
def ageBy (ms : Nat) (ages : List Nat) : List Nat := ages.map fun age => min (age + ms) (Config.maxHeardAge * 1000)

/-- R35: the milliseconds until the first age passes a whole second. -/
def untilSecond (ages : List Nat) : Nat := 1000 - ages.foldr (fun age most => max (age % 1000) most) 0

/-- R35: the ages at the next moment at which one of them passes a whole second (log 4). -/
def passSecond (ages : List Nat) : List Nat := ageBy (untilSecond ages) ages

/-- R35: a millisecond of the ages; a whole second waits for its LAST_HEARD_TICK, as a timer waits for its expiry. -/
def ageMs (ages : List Nat) : List Nat := if untilSecond ages = 1 then ages else ageBy 1 ages

/-- R35: the age of a sender's number is set to 0 at a delivery. -/
def resetAge (ages : List Nat) (n : Nat) : List Nat :=
  match n with
  | 0 => ages
  | k + 1 => ages.set k 0

/-- This station's own roster entry. -/
def State.ownEntry (s : State) : Entry := s.replica.entry s.cfg.station

/-- R26: the replica may be used. -/
abbrev State.InSync (s : State) : Prop := s.member.state = .inSync

/-! ## Order ids (R74) -/

/-- R74: whether order id x is newer than order id c. -/
def newer (x c : Word16) : Bool :=
  x != 0 && (c == 0 || (decide (1 ≤ (x - c).toNat) && decide ((x - c).toNat ≤ 32767)))

/-- R73, R78: the range of an order's minutes. -/
def minutesInRange (start deadline grace : Nat) : Bool :=
  decide (start ≤ 720) && decide (1 ≤ deadline) && decide (deadline ≤ 900) && decide (start < deadline)
    && decide (grace ≤ 120)

/-! ## One idle millisecond (log 2) -/

/-- Gate patience with a millisecond gone. -/
def Patience.tick : Patience → Patience
  | .running n night => .running (n - 1) night
  | .stopped => .stopped
  | .elapsed night => .elapsed night

/-- One millisecond passes with no command waiting: every running timer has a millisecond less, every buffered frame is
a millisecond older and, from the end of LOADING (R35), so is every last-heard age. Nothing expires: an expiry is a
command (log 3). -/
def tick (s : State) : State :=
  { s with
    lastHeard := if s.loader.state = .reading then s.lastHeard else ageMs s.lastHeard
    member := { s.member with
      askWait := s.member.askWait.tick
      seriesGap := s.member.seriesGap.tick
      pause := s.member.pause.tick
      cooldown := s.member.cooldown.tick
      watch := s.member.watch.map (fun w => { w with gap := w.gap.tick })
      buffer := s.member.buffer.map (fun e => { e with age := e.age + 1 }) }
    night := { s.night with
      start := s.night.start.tick, deadline := s.night.deadline.tick, grace := s.night.grace.tick }
    claim := { s.claim with keep := s.claim.keep.tick, claimAge := s.claim.claimAge.tick }
    gate := { s.gate with patience := s.gate.patience.tick }
    seq := { s.seq with
      wake := s.seq.wake.tick, good := s.seq.good.tick, settle := s.seq.settle.tick
      contactTimer := s.seq.contactTimer.tick, progressTimer := s.seq.progressTimer.tick
      shutdown := s.seq.shutdown.tick, cooldown := s.seq.cooldown.tick, pressTimer := s.seq.pressTimer.tick }
    loader := { s.loader with readLimit := s.loader.readLimit.tick } }

end Sys2Proof.Machine
end

