-- ==== Sys2Proof/Machine/Flags.lean ====
section
/-! DEFINITION. EVENTS, EVENT_MASK and ATTN (R169 to R171, 10.8), and the row statistics (R24). -/

namespace Sys2Proof.Machine

/-! ## EVENTS (R169, 10.8) -/

/-- 10.8: the place of an event in EVENTS, its first byte being bits 15..8 and its second bits 7..0. -/
def Event.place : Event → Nat
  | .lineFault => 8
  | .lineStuck => 9
  | .desync => 10
  | .isolated => 11
  | .duplicateNumber => 12
  | .configFault => 13
  | .nightRunning => 0
  | .abortPosted => 1
  | .goReady => 2
  | .outcomeReady => 3
  | .reportRefused => 4

/-- The word with one event's place set. -/
def Event.bit (e : Event) : Word16 := (1 : Word16) <<< e.place

/-- R169: whether an event is pending. -/
def State.isPending (s : State) (e : Event) : Bool := s.link.events.getLsbD e.place

/-- R169: a raise makes the event pending whether or not it was. R170: the raise counts as one since a copy. -/
def raise (e : Event) (s : State) : State :=
  s.setLink { s.link with events := s.link.events ||| e.bit, raisedSince := s.link.raisedSince ||| e.bit }

/-! ## ATTN (R171) -/

/-- R171: ATTN, from the error events, the enabled night events and the probe-pending flag; deasserted in LOADING. -/
def State.attn (s : State) : Bool :=
  s.loader.state != .reading
    && (hi8 s.link.events != 0 || (lo8 s.link.events &&& s.link.mask) != 0 || s.link.probePending)

/-! ## Row statistics (R24) -/

/-- R24: FRAMES_DELIVERED rises by one. -/
def countDelivered (s : State) : State := s.setRli { s.rli with framesDelivered := s.rli.framesDelivered + 1 }

/-- R24: FRAMES_VETOED rises by one. -/
def countVetoed (s : State) : State := s.setRli { s.rli with framesVetoed := s.rli.framesVetoed + 1 }

/-- R24: ARB_LOSSES rises by one. -/
def countArbLoss (s : State) : State := s.setRli { s.rli with arbLosses := s.rli.arbLosses + 1 }

/-- R24: RX_ERRORS rises by one. -/
def countRxError (s : State) : State := s.setRli { s.rli with rxErrors := s.rli.rxErrors + 1 }

end Sys2Proof.Machine
end

