-- ==== Sys2Proof/Machine/Marks.lean ====
section
/-! DEFINITION. The Gate and Mark Unit (chapter 6): the MARK it builds, the mark source's placing and replacing, the
emitted-marks set, the classing of leads, the opening condition and gate patience. -/

namespace Sys2Proof.Machine

/-! ## MARK frames (R124 to R127) -/

/-- R124: the newest field, KEEP when no milestone is pending. -/
def newestCode : Option MarkKind → Byte
  | some k => k.code
  | none => keepCode

/-- R124: the MARK built from the values as they stand. -/
def State.markBody (s : State) : Body :=
  .mark s.gate.emittedNight (newestCode s.gate.newest) s.gate.emitted s.seq.state.shown.code (wordOf s.seq.progress)
    (byteOf s.seq.attempt) 0

/-- R22, R126: what is held back after another event during the attempt; a milestone is not forgotten for an event. -/
def HeldMark.join : HeldMark → HeldMark → HeldMark
  | .milestone, _ => .milestone
  | .event, .milestone => .milestone
  | .event, _ => .event
  | .none, h => h

/-- R126: a MARK is taken into an EMPTY slot, replaces a WAITING one (loss count kept, veto count 0), and is held back
while the slot is SENDING. -/
def putMark (h : HeldMark) (s : State) : State :=
  match s.slot .mark with
  | .empty => s.setSlot .mark (fresh s.markBody)
  | .waiting q => s.setSlot .mark (.waiting { q with body := s.markBody, veto := 0 })
  | .sending _ _ _ => s.setRli { s.rli with heldMark := s.rli.heldMark.join h }

/-- R127: the mark source places frames in every membership state except LOADING and UNCONFIGURED. -/
def State.marksAllowed (s : State) : Bool :=
  match s.member.state with
  | .loading | .unconfigured => false
  | .joining | .collecting | .inSync | .desync | .isolated => true

/-- R125: a keep mark, or the MARK at entry to IN_SYNC; both are placed with night id 0 as well. -/
def keepMark (s : State) : State := if s.marksAllowed then putMark .event s else s

/-- R125: a change of the sequencer's state without a milestone; under night id 0 it places nothing. -/
def stateMark (s : State) : State := if s.gate.emittedNight = 0 then s else keepMark s

/-- R121, R122: a milestone adds its kind, becomes the pending newest and places or replaces a MARK; under night id 0
it does nothing. The state it is handed with has been entered already. -/
def milestone (k : MarkKind) (s : State) : State :=
  if s.gate.emittedNight = 0 then s
  else
    let s' := s.setGate { s.gate with emitted := s.gate.emitted.add k, newest := some k }
    if s'.marksAllowed then putMark .milestone s' else s'

/-- R123: whether the comparator reaches COMPARE at this progress. -/
def State.reachesCompare (s : State) (progress : Nat) : Bool :=
  s.cfg.compare != 0 && !s.gate.emitted.has .compare && decide (s.cfg.compare ≤ progress)

/-- R122, R123: the comparator. The pending newest is the last kind of the report in the order of the marks set, so
TRANSFERRED or IMAGED of the same report stays newest. -/
def comparator (progress : Nat) (laterKind : Option MarkKind) (s : State) : State :=
  if s.reachesCompare progress then
    let s' := milestone .compare s
    match laterKind with
    | none => s'
    | some k => if s.gate.emittedNight = 0 then s' else milestone k s'
  else s

/-- R126: an accepted report's progress replaces a WAITING MARK and does nothing else. -/
def progressMark (s : State) : State :=
  match s.slot .mark with
  | .waiting q => s.setSlot .mark (.waiting { q with body := s.markBody, veto := 0 })
  | .empty => s
  | .sending _ _ _ => s

/-- R126: the held-back MARK is presented when the attempt has ended. -/
def presentHeldMark (s : State) : State :=
  match s.rli.heldMark with
  | .none => s
  | .event | .milestone => putMark .event (s.setRli { s.rli with heldMark := .none })

/-- R126: whether a delivered MARK carried the pending newest, and no milestone was held back since. -/
def State.carriedNewest (s : State) : Body → Bool
  | .mark _ newest _ _ _ _ _ => s.gate.newest.isSome && newest == newestCode s.gate.newest && s.rli.heldMark != .milestone
  | _ => false

/-- R126: the mark source is told that its MARK was delivered. -/
def markDelivered (b : Body) (s : State) : State :=
  presentHeldMark (if s.carriedNewest b then s.setGate { s.gate with newest := none } else s)

/-- R126: the mark source is told that its MARK was dropped, and places one again at once. -/
def markDropped (s : State) : State := putMark .event (s.setRli { s.rli with heldMark := .none })

/-- R121: the emitted-marks set is emptied for a night other than its own. -/
def emittedFor (night : Word16) (s : State) : State :=
  if s.gate.emittedNight = night then s
  else s.setGate { s.gate with emitted := 0, newest := none, emittedNight := night }

/-! ## The gate (R115 to R119) -/

/-- R115: the used leads; a number in two entries counts alike once and twice. -/
def State.usedLeads (s : State) : List Nat :=
  s.cfg.leads.filter fun n => n != 0 && n != s.cfg.station

/-- R120: whether gate patience is running or elapsed for a night. -/
def Patience.isFor (p : Patience) (night : Word16) : Bool :=
  match p with
  | .stopped => false
  | .running _ n => n == night
  | .elapsed n => n == night

/-- R120: whether gate patience has elapsed for a night. -/
def Patience.elapsedFor (p : Patience) (night : Word16) : Bool :=
  match p with
  | .elapsed n => n == night
  | .stopped => false
  | .running _ _ => false

/-- R117: the class of a lead by its roster entry; patience has elapsed, or not, for the gate's night. -/
def classLead (awaited : MarkKind) (elapsed : Bool) (e : Entry) : LeadClass :=
  if e.marks.has awaited then .passed
  else if e.state = some .done then .passed
  else if e.state = some .failed ∨ e.state = some .skipped ∨ e.state = some .localUse then .out
  else if e.presence ≠ .present ∧ elapsed = true then .out
  else .waiting

/-- R117: the classes of the used leads. -/
def State.leadClasses (s : State) : List LeadClass :=
  s.usedLeads.map fun n => classLead s.cfg.awaited (s.gate.patience.elapsedFor s.gate.night) (s.replica.entry n)

/-- R118: the opening condition over the classes of the used leads. -/
def openingMet (mode : GateMode) (classes : List LeadClass) : Bool :=
  match mode with
  | .free => true
  | .afterAny => classes.any (· == .passed) || classes.all (· == .out)
  | .afterAll => classes.all (· != .waiting)

/-- R118, R119: whether an evaluation opens the gate. -/
def State.gateOpens (s : State) : Bool :=
  s.member.state == .inSync && s.seq.state == .gated && !s.gate.isOpen
    && openingMet s.cfg.gateMode s.leadClasses
    && s.replica.night.state == .running && s.replica.night.id == s.gate.night

/-- R116: the gate is made ready for a night other than its own. -/
def gateReady (night : Word16) (s : State) : State :=
  if s.gate.night = night then s else s.setGate { s.gate with isOpen := false, night := night }

/-! ## Gate patience (R120) -/

/-- R120: the timer starts for a night that runs, unless it is running or elapsed for it. -/
def startPatience (s : State) : State :=
  if s.gate.patience.isFor s.replica.night.id then s
  else s.setGate { s.gate with patience := .running Config.gatePatience s.replica.night.id }

/-- R120: an ORDER that is made stops the timer. -/
def stopPatience (s : State) : State := s.setGate { s.gate with patience := .stopped }

/-- R120: whether a night is under way for the timer at entry to IN_SYNC, and R136: RUNNING, or HELD from RUNNING. -/
def NightRecord.underWay (n : NightRecord) : Bool :=
  n.state == .running || (n.state == .held && n.heldFrom == .running)

/-- R120: the timer at entry to IN_SYNC. -/
def patienceAtSync (s : State) : State := if s.replica.night.underWay then startPatience s else s

end Sys2Proof.Machine
end

