-- ==== Sys2Proof/Machine/Replica.lean ====
section
/-! DEFINITION. The frame applier (R36 to R45): the change a delivered frame makes to a replica is a function of the
frame and that replica alone (R36, law of determinism). -/

namespace Sys2Proof.Machine

/-! ## Pools -/

/-- R82: a night change clears a pool's reservation; the generation rises only where there was one. -/
def clearReservation (p : PoolRecord) : PoolRecord :=
  if p.reserver = 0 then p
  else { p with reserver := 0, reserved := 0, generation := p.generation + 1 }

/-- In-use after units are given back (R105, R108); below zero the spec states no value (log 9). -/
def giveBack (inUse units : Nat) : Nat := if units ≤ inUse then inUse - units else Config.freeInUse inUse units

/-- R99, R102, tests 1: the pool and units a CLAIM or PARK names. -/
def poolUnits (pool units : Byte) : Option (Pool × Nat) :=
  match Pool.ofCode pool with
  | some p => if 1 ≤ units.toNat ∧ units.toNat ≤ 15 then some (p, units.toNat) else none
  | none => none

/-! ## ORDER and NIGHT (R78 to R82) -/

/-- R78: whether the kind part of an ORDER is made. -/
def orderMade (n : NightRecord) (id start deadline : Word16) (grace : Byte) : Bool :=
  newer id n.id && (n.state == .idle || n.state == .ended)
    && minutesInRange start.toNat deadline.toNat grace.toNat

/-- R78: what an ORDER writes. -/
def writeOrder (r : Replica) (sender : Nat) (id : Word16) (image : Word32) (start deadline : Word16)
    (grace : Byte) (caps : PerPool Nat) : Replica :=
  { night :=
      { id := id, image := image, state := if start.toNat = 0 then .running else .pending, heldFrom := .pending,
        aborted := false, start := start.toNat, deadline := deadline.toNat, grace := grace.toNat,
        capacities := caps, relayer := sender }
    pools := PerPool.ofFun fun p => clearReservation { r.pools.get p with capacity := caps.get p }
    roster := r.roster.map fun e => { e with marks := 0, state := none } }

/-- R79: the rows of action, from-state and to-state. -/
def nightRow (a : NightAction) (f t : NightState) : Bool :=
  match a, f, t with
  | .step, .pending, .running => true
  | .step, .pending, .closing => true
  | .step, .running, .closing => true
  | .step, .held, .closing => true
  | .step, .closing, .ended => true
  | .hold, .pending, .held => true
  | .hold, .running, .held => true
  | .resume, .held, .pending => true
  | .resume, .held, .running => true
  | .abort, .pending, .ended => true
  | .abort, .running, .ended => true
  | .abort, .held, .ended => true
  | .abort, .closing, .ended => true
  | _, _, _ => false

/-- R79: the action and to-state of a NIGHT frame whose kind part is made. -/
def nightMade (n : NightRecord) (id : Word16) (action fromState toState : Byte) : Option (NightAction × NightState) :=
  match NightAction.ofCode action, NightState.ofCode fromState, NightState.ofCode toState with
  | some a, some f, some t =>
    if id = n.id ∧ f = n.state ∧ nightRow a f t = true ∧ (a = .resume → t = n.heldFrom.state) then some (a, t)
    else none
  | _, _, _ => none

/-- R80: whether a NIGHT frame's change clears every pool's reservation. -/
def nightClears (a : NightAction) (t : NightState) : Bool :=
  match a with
  | .step => t == .closing
  | .hold => true
  | .resume => false
  | .abort => true

/-- R80: what a NIGHT frame writes. -/
def writeNight (r : Replica) (a : NightAction) (t : NightState) : Replica :=
  let n := r.night
  { r with
    night := { n with
      state := t
      heldFrom := if a = .hold then (if n.state = .running then .running else .pending) else n.heldFrom
      aborted := n.aborted || a == .abort }
    pools := if nightClears a t then r.pools.map clearReservation else r.pools }

/-! ## CLAIM, PARK, UNPARK, RELEASE, RECLAIM (R99 to R108) -/

/-- R99: the six tests of a CLAIM, in order. -/
def judgeClaim (r : Replica) (sender : Nat) (pool units : Byte) (gen : Word16) (restore : Bool) :
    Verdict × Option (Pool × Nat) :=
  match poolUnits pool units with
  | none => (.refused, none)
  | some (p, u) =>
    let rec_ := r.pools.get p
    if ¬ (r.night.state = .running ∨ (restore = true ∧ p = .load)) then (.refused, none)
    else if (r.entry sender).holds.get p ≠ 0 then (.refused, none)
    else if gen ≠ rec_.generation then (.stale, none)
    else if ¬ (rec_.reserver = 0 ∨ rec_.reserver = sender ∨ rec_.inUse + u + rec_.reserved ≤ rec_.capacity) then
      (.blocked, none)
    else if ¬ (rec_.inUse + u ≤ rec_.capacity) then (.short, none)
    else (.made, some (p, u))

/-- R99: what a grant writes to its pool: one rise of the generation, and the grantee's reservation cleared. -/
def grantPool (rec_ : PoolRecord) (sender units : Nat) : PoolRecord :=
  { rec_ with
    inUse := rec_.inUse + units
    generation := rec_.generation + 1
    reserver := if rec_.reserver = sender then 0 else rec_.reserver
    reserved := if rec_.reserver = sender then 0 else rec_.reserved }

/-- The replica with one station's hold in one pool set. -/
def setHold (r : Replica) (n : Nat) (p : Pool) (units : Nat) : Replica :=
  { r with roster := rosterModify r.roster n fun e => { e with holds := e.holds.set p units } }

/-- The replica with one pool record set. -/
def setPool (r : Replica) (p : Pool) (x : PoolRecord) : Replica := { r with pools := r.pools.set p x }

/-- R99: a grant. -/
def writeGrant (r : Replica) (sender : Nat) (p : Pool) (units : Nat) : Replica :=
  setHold (setPool r p (grantPool (r.pools.get p) sender units)) sender p units

/-- R102: the four tests of a PARK, in order. -/
def judgePark (r : Replica) (sender : Nat) (pool units : Byte) : Verdict × Option (Pool × Nat) :=
  match poolUnits pool units with
  | none => (.refused, none)
  | some (p, u) =>
    if r.night.state ≠ .running then (.busy, none)
    else if (r.pools.get p).reserver ≠ 0 then (.busy, none)
    else if (r.entry sender).holds.get p ≠ 0 then (.busy, none)
    else (.made, some (p, u))

/-- R102: a reservation is placed. -/
def writePark (r : Replica) (sender : Nat) (p : Pool) (units : Nat) : Replica :=
  let rec_ := r.pools.get p
  setPool r p { rec_ with reserver := sender, reserved := units, generation := rec_.generation + 1 }

/-- R103: the pool whose reservation an UNPARK clears. -/
def judgeUnpark (r : Replica) (sender : Nat) (pool : Byte) : Option Pool :=
  match Pool.ofCode pool with
  | some p => if (r.pools.get p).reserver = sender ∧ sender ≠ 0 then some p else none
  | none => none

/-- R105: whether the part of a RELEASE for a pool applies. -/
def releasePart (r : Replica) (sender : Nat) (p : Pool) (units : Nat) : Bool :=
  units != 0 && (r.entry sender).holds.get p == units

/-- R105: one pool's part of a RELEASE. -/
def writeRelease (sender : Nat) (p : Pool) (units : Nat) (r : Replica) : Replica :=
  if releasePart r sender p units then
    let rec_ := r.pools.get p
    setHold (setPool r p { rec_ with inUse := giveBack rec_.inUse units, generation := rec_.generation + 1 }) sender p 0
  else r

/-- R108: whether a station holds units or is a reserver in some pool. -/
def holdsOrReserves (r : Replica) (n : Nat) : Bool :=
  !(r.entry n).holds.isZero
    || r.pools.surge.reserver == n || r.pools.load.reserver == n || r.pools.feed.reserver == n

/-- R108: whether the kind part of a RECLAIM is made. -/
def reclaimMade (r : Replica) (sender : Nat) (target heard : Byte) : Bool :=
  decide (1 ≤ target.toNat) && decide (target.toNat ≤ Config.stations) && target.toNat != sender
    && (r.entry target.toNat).heard == heard && holdsOrReserves r target.toNat

/-- R108: one pool's change under a RECLAIM of a target that holds the units in it. -/
def reclaimPool (target units : Nat) (rec_ : PoolRecord) : PoolRecord :=
  if units ≠ 0 ∨ rec_.reserver = target then
    { rec_ with
      inUse := giveBack rec_.inUse units
      generation := rec_.generation + 1
      reserver := if rec_.reserver = target then 0 else rec_.reserver
      reserved := if rec_.reserver = target then 0 else rec_.reserved }
  else rec_

/-- R108: what a RECLAIM writes. -/
def writeReclaim (r : Replica) (target : Nat) : Replica :=
  let holds := (r.entry target).holds
  { r with
    pools := PerPool.ofFun fun p => reclaimPool target (holds.get p) (r.pools.get p)
    roster := rosterModify r.roster target fun e => { e with holds := PerPool.all 0, presence := .silent } }

/-! ## MARK (R39, R40) -/

/-- R39: the newest field is KEEP or a kind the MARK's own set contains. -/
def newestOk (newest : Byte) (marks : MarkSet) : Bool :=
  newest == keepCode || (decide (newest.toNat < 8) && marks.getLsbD newest.toNat)

/-- R39: the state a MARK that is not void gives its sender. -/
def markMade (n : NightRecord) (night : Word16) (newest marks state : Byte) (progress : Word16) (attempt : Byte) :
    Option ShownState :=
  if night ≠ 0 ∧ night = n.id ∧ progress.toNat ≤ Config.maxProgress ∧ attempt.toNat ≤ 4
      ∧ newestOk newest marks = true then
    ShownState.ofCode state
  else none

/-- R40: what a MARK writes. -/
def writeMark (r : Replica) (sender : Nat) (marks : MarkSet) (st : ShownState) (progress attempt : Nat) : Replica :=
  { r with roster := rosterModify r.roster sender fun e =>
      { e with marks := e.marks ||| marks, state := some st, progress := progress, attempt := attempt } }

/-! ## The applier (R36) -/

/-- R36, part 1: the kind part, judged against the replica as the frame reaches the applier. -/
def kindPart (r : Replica) (sender : Nat) : Body → Replica × Verdict
  | .order id image start deadline grace cs cl cf =>
    if orderMade r.night id start deadline grace then
      (writeOrder r sender id image start deadline grace ⟨cs.toNat, cl.toNat, cf.toNat⟩, .made)
    else (r, .void)
  | .night id action f t =>
    match nightMade r.night id action f t with
    | some (a, t') => (writeNight r a t', .made)
    | none => (r, .void)
  | .claim pool units gen flags =>
    match judgeClaim r sender pool units gen (flags.getLsbD 0) with
    | (v, some (p, u)) => (writeGrant r sender p u, v)
    | (v, none) => (r, v)
  | .park pool units =>
    match judgePark r sender pool units with
    | (v, some (p, u)) => (writePark r sender p u, v)
    | (v, none) => (r, v)
  | .unpark pool =>
    match judgeUnpark r sender pool with
    | some p => (setPool r p (clearReservation (r.pools.get p)), .made)
    | none => (r, .void)
  | .release us ul uf =>
    if releasePart r sender .surge us.toNat || releasePart r sender .load ul.toNat
        || releasePart r sender .feed uf.toNat then
      (writeRelease sender .feed uf.toNat (writeRelease sender .load ul.toNat
        (writeRelease sender .surge us.toNat r)), .made)
    else (r, .void)
  | .reclaim target heard =>
    if reclaimMade r sender target heard then (writeReclaim r target.toNat, .made) else (r, .void)
  | .mark night newest marks st progress attempt _ =>
    match markMade r.night night newest marks st progress attempt with
    | some state => (writeMark r sender marks state progress.toNat attempt.toNat, .made)
    | none => (r, .void)
  | .ask => (r, .noPart)
  | .run _ _ _ => (r, .noPart)
  | .unknown _ _ => (r, .noPart)

/-- R36, part 2 (R33, R34): the sender becomes PRESENT and its heard count rises by one, wrapping. -/
def commonChange (r : Replica) (sender : Nat) : Replica :=
  { r with roster := rosterModify r.roster sender fun e => { e with presence := .present, heard := e.heard + 1 } }

/-- R36: the application of one delivered frame, and the outcome it yields. -/
def applyFrame (r : Replica) (sender : Nat) (b : Body) : Replica × Verdict :=
  let (r', v) := kindPart r sender b
  (commonChange r' sender, v)

/-- R45: the common change of n frames of one sender. -/
def commonChanges (sender : Nat) : Nat → Replica → Replica
  | 0, r => r
  | n + 1, r => commonChanges sender n (commonChange r sender)

end Sys2Proof.Machine
end

