-- ==== Sys2Proof/Machine/Claims.lean ====
section
/-! DEFINITION. The Claim Engine's own operations (chapter 5): free count, re-reading, requests, cancellation, UNPARK,
releases, the keep timer, RESTORE and the silence watch. A re-reading answers with the state and whether the request
became GRANTED, of which the sequencer is told by its caller. -/

namespace Sys2Proof.Machine

/-- This station's hold in a pool as the replica shows it. -/
def State.shownHold (s : State) (p : Pool) : Nat := s.ownEntry.holds.get p

/-- Whether the replica shows this station as the reserver of a pool. -/
def State.reserves (s : State) (p : Pool) : Bool :=
  (s.replica.pools.get p).reserver != 0 && (s.replica.pools.get p).reserver == s.cfg.station

/-! ## The keep timer (R107) -/

/-- R107: whether this station is holding. -/
def State.holding (s : State) : Bool := !s.claim.ownHolds.isZero || s.claim.ownReservation.isSome

/-- R107: the keep timer starts when holding begins, runs on while it lasts and stops when it ends. -/
def keepSync (s : State) : State :=
  if s.holding then
    if s.claim.keep.isRunning then s else s.setClaim { s.claim with keep := .running Config.keep }
  else s.setClaim { s.claim with keep := .stopped }

/-- R107: the keep timer starts again at the delivery of a frame of this station's own. -/
def keepRestart (s : State) : State :=
  if s.claim.keep.isRunning then s.setClaim { s.claim with keep := .running Config.keep } else s

/-- R107: the own-holds record is written, and the keep timer follows. -/
def recordHold (p : Pool) (units : Nat) (s : State) : State :=
  keepSync (s.setClaim { s.claim with ownHolds := s.claim.ownHolds.set p units })

/-- R107: the own reservation is written, and the keep timer follows. -/
def recordReservation (r : Option Pool) (s : State) : State :=
  keepSync (s.setClaim { s.claim with ownReservation := r })

/-! ## Re-reading a pool (R93 to R96) -/

/-- R93: the free count, which may be negative. -/
def State.freeUnits (s : State) (p : Pool) : Int :=
  let rec_ := s.replica.pools.get p
  (rec_.capacity : Int) - rec_.inUse
    - (if rec_.reserver ≠ 0 ∧ rec_.reserver ≠ s.cfg.station then (rec_.reserved : Int) else 0)

/-- R95: the first line of the table that holds. -/
def State.reading (s : State) (r : Request) : Reading :=
  if s.shownHold r.pool ≠ 0 then .held
  else if s.replica.night.state ≠ .running ∧ r.restore = false then .waits
  else if (r.units : Int) ≤ s.freeUnits r.pool then .claims
  else if Config.parkPatience ≤ r.patience ∧ (s.replica.pools.get r.pool).reserver = 0
      ∧ s.replica.night.state = .running then .parks
  else .waits

/-- R95: the CLAIM a re-reading places. -/
def State.claimBody (s : State) (r : Request) : Body :=
  .claim r.pool.code (byteOf r.units) (s.replica.pools.get r.pool).generation (if r.restore then 1 else 0)

/-- R95: the PARK a re-reading places. -/
def parkBody (r : Request) : Body := .park r.pool.code (byteOf r.units)

/-- Whether a body is a CLAIM or a PARK, a frame of a request. -/
def Body.ofRequest : Body → Bool
  | .claim _ _ _ _ => true
  | .park _ _ => true
  | _ => false

/-- R95: a frame of the active request is in the claim slot. -/
def State.requestQueued (s : State) : Bool :=
  !s.claim.orphan && (match (s.slot .claim).body with
    | some b => b.ofRequest
    | none => false)

/-- The active request with another state. -/
def setRequestState (st : RequestState) (s : State) : State :=
  s.setClaim { s.claim with request := s.claim.request.map fun r => { r with state := st } }

/-- R97: the claim age timer stops when the CLAIM leaves the slot. -/
def stopClaimAge (s : State) : State := s.setClaim { s.claim with claimAge := .stopped, ageExpired := false }

/-- R95: a CLAIM is placed, its age timer starts (R97) and the request is READY; a slot in use makes it wait, PARKED
(log 12). -/
def placeClaim (r : Request) (s : State) : State :=
  match s.slot .claim with
  | .empty =>
    let s' := setRequestState .ready (s.setSlot .claim (fresh (s.claimBody r)))
    s'.setClaim { s'.claim with claimAge := .running Config.claimAge, ageExpired := false }
  | .waiting _ => setRequestState .parked s
  | .sending _ _ _ => setRequestState .parked s

/-- R95: a PARK is placed and the request is RESERVING; a slot in use makes it wait, PARKED (log 12). -/
def placePark (r : Request) (s : State) : State :=
  match s.slot .claim with
  | .empty => setRequestState .reserving (s.setSlot .claim (fresh (parkBody r)))
  | .waiting _ => setRequestState .parked s
  | .sending _ _ _ => setRequestState .parked s

/-- R94, R101: the active request is GRANTED, and its patience discarded. -/
def setGranted (s : State) : State :=
  s.setClaim { s.claim with request := s.claim.request.map fun r => { r with state := .granted, patience := 0 } }

/-- R101, R95 line 1: the request is GRANTED and its units are in the own-holds record. -/
def grantRequest (p : Pool) (units : Nat) (s : State) : State := setGranted (recordHold p units s)

/-- R95: the engine re-reads the pool of the active request, while IN_SYNC, not GRANTED and with no frame of the
request queued; the flag says that the request became GRANTED. DESIGN CHOICE (log 42): line 1 takes the hold that the
roster entry shows, be it one that a second station with this number was granted (R38, R100). -/
def reread (s : State) : State × Bool :=
  match s.claim.request with
  | none => (s, false)
  | some r =>
    if s.member.state ≠ .inSync ∨ r.state = .granted ∨ s.requestQueued = true then (s, false)
    else match s.reading r with
      | .held => (grantRequest r.pool (s.shownHold r.pool) s, true)
      | .waits => (setRequestState .parked s, false)
      | .claims => (placeClaim r s, false)
      | .parks => (placePark r s, false)

/-- R94: patience rises by one, stopping at 63; a suspended request keeps its own (R112, R114), so an install's replay
raises none. -/
def raisePatience (s : State) : State :=
  if s.member.state = .inSync then
    s.setClaim { s.claim with request := s.claim.request.map fun r =>
      { r with patience := min (r.patience + 1) Config.maxPatience } }
  else s

/-! ## UNPARK (R98, R103, R113) -/

/-- R98: the UNPARKs still due: those whose reservation the replica still shows. -/
def State.unparksDue (s : State) : PerPool Bool :=
  PerPool.ofFun fun p => s.claim.unparkDue.get p && s.reserves p

/-- The first pool of a set. -/
def PerPool.first (x : PerPool Bool) : Option Pool :=
  if x.surge then some .surge else if x.load then some .load else if x.feed then some .feed else none

/-- R98: an UNPARK that is due is placed once the claim slot is EMPTY, while IN_SYNC; one whose reservation is gone is
not placed. -/
def tryUnpark (s : State) : State :=
  if s.member.state ≠ .inSync then s
  else
    let due := s.unparksDue
    match s.slot .claim, due.first with
    | .empty, some p =>
      (s.setSlot .claim (fresh (.unpark p.code))).setClaim { s.claim with unparkDue := due.set p false }
    | _, _ => s.setClaim { s.claim with unparkDue := due }

/-- R98: an UNPARK for a pool is wanted. -/
def wantUnpark (p : Pool) (s : State) : State :=
  s.setClaim { s.claim with unparkDue := s.claim.unparkDue.set p true }

/-! ## Requests (R95, R98, R111) -/

/-- R98: the frame of a request that is given up: withdrawn when WAITING, run on without a request when SENDING. -/
def dropRequestFrame (s : State) : State :=
  if s.requestQueued then
    match s.slot .claim with
    | .waiting _ => stopClaimAge (withdraw .claim s)
    | .sending _ _ _ => s.setClaim { s.claim with orphan := true }
    | .empty => s
  else s

/-- R98: the active request is cancelled: its frame is given up, its reservation is given up by UNPARK while IN_SYNC,
and the request becomes IDLE; a GRANTED request only becomes IDLE. -/
def cancelRequest (s : State) : State :=
  match s.claim.request with
  | none => s
  | some r =>
    if r.state = .granted then s.setClaim { s.claim with request := none }
    else
      let s1 := dropRequestFrame s
      let s2 := s1.setClaim { s1.claim with request := none }
      tryUnpark (if s2.member.state = .inSync ∧ s2.reserves r.pool = true then wantUnpark r.pool s2 else s2)

/-- R98, R111: the sequencer cancels: the active request is cancelled. DESIGN CHOICE (log 38): its deferred request is
dropped with it, where R146, R151 and R152 name the active request alone. -/
def cancelAll (s : State) : State := cancelRequest (s.setClaim { s.claim with deferred := none })

/-- Whether the active request is not GRANTED. -/
def State.requestOpen (s : State) : Bool :=
  match s.claim.request with
  | some r => r.state != .granted
  | none => false

/-- R111: a RESTORE request is active. -/
def State.restoring (s : State) : Bool :=
  match s.claim.request with
  | some r => r.restore && r.state != .granted
  | none => false

/-- R98: the sequencer gives up its request for one pool, active or deferred. -/
def cancelFor (p : Pool) (s : State) : State :=
  let s1 := match s.claim.deferred with
    | some (q, _) => if q = p then s.setClaim { s.claim with deferred := none } else s
    | none => s
  match s1.claim.request with
  | some r => if r.pool = p ∧ r.restore = false then cancelRequest s1 else s1
  | none => s1

/-- R95: a fresh request; outside IN_SYNC it is taken READY, suspended. -/
def State.freshRequest (s : State) (p : Pool) (units : Nat) (restore : Bool) : Request :=
  { pool := p, units := units, patience := 0, restore := restore,
    state := if s.member.state = .inSync then .parked else .ready }

/-- R95, R111: the sequencer makes a request: deferred while a RESTORE request is active; an older request that is not
GRANTED is cancelled first; the pool is re-read at once while IN_SYNC. -/
def makeRequest (p : Pool) (units : Nat) (s : State) : State × Bool :=
  if s.restoring then (s.setClaim { s.claim with deferred := some (p, units) }, false)
  else
    let s1 := cancelRequest s
    reread (s1.setClaim { s1.claim with request := some (s1.freshRequest p units false) })

/-- R111: what the deferred request is when a RESTORE request supersedes the active one. -/
def State.deferredNext (s : State) : Option (Pool × Nat) :=
  match s.claim.request with
  | some r => if r.state ≠ .granted ∧ r.restore = false then some (r.pool, r.units) else s.claim.deferred
  | none => s.claim.deferred

/-- R111: a RESTORE request for LOAD becomes the active request; another that was not GRANTED is superseded and its
pool and units are deferred. -/
def startRestore (s : State) : State :=
  let d := s.deferredNext
  let s1 := if s.requestOpen then dropRequestFrame s else s
  s1.setClaim { s1.claim with
    request := some (s1.freshRequest .load s.cfg.cost.load true), deferred := d }

/-! ## Releases (R104 to R106) -/

/-- R22: a merge: the pools the new release names take its units. -/
def mergeUnits (old new : PerPool Nat) : PerPool Nat :=
  PerPool.ofFun fun p => if new.get p ≠ 0 then new.get p else old.get p

/-- R105: the RELEASE that names these units. -/
def releaseBody (u : PerPool Nat) : Body := .release (byteOf u.surge) (byteOf u.load) (byteOf u.feed)

/-- The units a RELEASE names. -/
def Body.released : Body → PerPool Nat
  | .release s l f => ⟨s.toNat, l.toNat, f.toNat⟩
  | _ => PerPool.all 0

/-- R21, R22, R104: the release source places a RELEASE, merges it into a WAITING one with its loss count kept
and veto count 0, be it by the same units (R17, log 16), or holds the units back while the slot is SENDING. -/
def placeRelease (u : PerPool Nat) (s : State) : State :=
  if u.isZero then s
  else match s.slot .release with
    | .empty => s.setSlot .release (fresh (releaseBody u))
    | .waiting q =>
      s.setSlot .release (.waiting { q with body := releaseBody (mergeUnits q.body.released u), veto := 0 })
    | .sending _ _ _ => s.setRli { s.rli with heldRelease := mergeUnits s.rli.heldRelease u }

/-- R104, R106: pools join the owed-release set. -/
def owePools (x : PerPool Bool) (s : State) : State :=
  s.setClaim { s.claim with owed := PerPool.ofFun fun p => s.claim.owed.get p || x.get p }

/-- The pools named by units other than 0. -/
def namedPools (u : PerPool Nat) : PerPool Bool := u.map (· != 0)

/-- R104: the units of the named pools that the own-holds record shows held. -/
def State.unitsOf (s : State) (x : PerPool Bool) : PerPool Nat :=
  PerPool.ofFun fun p => if x.get p then s.claim.ownHolds.get p else 0

/-- R104: the sequencer asks for the release of pools. -/
def releaseAsk (x : PerPool Bool) (s : State) : State :=
  if s.member.state = .inSync then placeRelease (s.unitsOf x) s
  else owePools (namedPools (s.unitsOf x)) s

/-- All three pools. -/
def everyPool : PerPool Bool := PerPool.all true

/-- One pool. -/
def onlyPool (p : Pool) : PerPool Bool := (PerPool.all false).set p true

/-! ## The silence watch (R109) -/

/-- R109: whether a peer is overdue. -/
def State.overdue (s : State) (n : Nat) : Bool :=
  n != s.cfg.station && holdsOrReserves s.replica n && decide (Config.silenceLimit ≤ heardAge s.lastHeard n)

/-- R32: the station numbers 1..40 in order. -/
def stationNumbers : List Nat := (List.range Config.stations).map (· + 1)

/-- R109: the lowest-numbered overdue peer. -/
def State.overduePeer (s : State) : Option Nat := stationNumbers.find? s.overdue

/-- R109: the RECLAIM for a peer, with its heard count as the replica shows it. -/
def State.reclaimBody (s : State) (n : Nat) : Body := .reclaim (byteOf n) (s.replica.entry n).heard

/-- R109: the watch re-judges the reclaim slot while it runs. -/
def judgeWatch (s : State) : State :=
  if s.claim.watching = false ∨ s.member.state ≠ .inSync then s
  else match s.slot .reclaim, s.overduePeer with
    | .empty, none => s
    | .empty, some n => s.setSlot .reclaim (fresh (s.reclaimBody n))
    | .waiting q, some n =>
      if q.body = s.reclaimBody n then s
      else s.setSlot .reclaim (.waiting { q with body := s.reclaimBody n, veto := 0 })
    | .waiting _, none => s.setSlot .reclaim .empty
    | .sending _ _ _, _ => s

/-! ## Out of step (R112) -/

/-- R112: the engine suspends: the claim age timer and the silence watch stop; the UNPARKs due are worked out again at
the next entry to IN_SYNC (R113). -/
def suspendEngine (s : State) : State :=
  s.setClaim { s.claim with
    claimAge := .stopped, ageExpired := false, watching := false, unparkDue := PerPool.all false }

end Sys2Proof.Machine
end

