-- ==== Sys2Proof/Machine/Sequencer.lean ====
section
/-! DEFINITION. The Bring-Up Sequencer (chapter 7): its states and their entries, taking up a night, standing, the
wake, booting, finishing, failed attempts, what the Claim Engine tells it, and the review at entry to IN_SYNC. -/

namespace Sys2Proof.Machine

/-! ## Outputs and readings (R129, R153) -/

/-- R129: DESK_BUTTON, asserted while a wake pulse runs or a press of PANEL_BUTTON passes through. -/
def State.deskButton (s : State) : Bool :=
  s.seq.wake.isRunning || (s.seq.press == .passing && s.pins.panelButton)

/-- R129: the desktop counts as powered for a RESTORE claim. -/
def State.powered (s : State) : Bool :=
  match s.seq.state with
  | .awaitGood | .settle => true
  | .booting | .imaging | .finishing => s.pins.powerGood
  | .standby | .gated | .claiming | .cooldown | .done | .failed | .skipped | .localUse => false

/-- R153, 7.2: the boot record's action. -/
def State.bootAction (s : State) : BootAction :=
  match s.seq.state with
  | .standby | .gated | .claiming | .done | .failed | .skipped | .localUse => .none
  | .awaitGood | .settle => .wait
  | .booting => if s.seq.go then .go else .wait
  | .imaging => .go
  | .finishing | .cooldown => .off

/-- R133: an idle sequencer: in STANDBY, or terminal for a night older than the replica's. -/
def State.idle (s : State) : Bool :=
  s.seq.state == .standby || (s.seq.state.terminal && newer s.replica.night.id s.seq.night)

/-! ## Entering a state (R124, R125, R154) -/

/-- The sequencer in another state. -/
def toState (st : SeqState) (s : State) : State := s.setSeq { s.seq with state := st }

/-- R125: a state entered without a milestone. -/
def enterState (st : SeqState) (s : State) : State := stateMark (toState st s)

/-- R122: a state entered with a milestone, in one notice. -/
def enterWith (k : MarkKind) (st : SeqState) (s : State) : State := milestone k (toState st s)

/-- R154: the outcome is set, with the final progress; set from NONE it raises OUTCOME_READY. -/
def setOutcome (o : NightOutcome) (skip : Option SkipReason) (s : State) : State :=
  let s1 := s.setSeq { s.seq with outcome :=
    { s.seq.outcome with outcome := o, skip := skip, finalProgress := s.seq.progress } }
  if s.seq.outcome.outcome = .unset ∧ o ≠ .unset then raise .outcomeReady s1 else s1

/-- R148: the late flag. -/
def setLate (s : State) : State :=
  s.setSeq { s.seq with outcome := { s.seq.outcome with late := true } }

/-- R148: the finishing outcome. -/
def setFinish (f : FinishOutcome) (s : State) : State := s.setSeq { s.seq with finish := f }

/-! ## Claims the sequencer makes (R137, R138, R140) -/

/-- R138: whether the wake may start: IN_SYNC, in CLAIMING, the replica showing the SURGE and LOAD costs held. -/
def State.wakeReady (s : State) : Bool :=
  s.seq.state == .claiming && s.member.state == .inSync
    && s.shownHold .surge == s.cfg.cost.surge && s.shownHold .load == s.cfg.cost.load

/-- R138, R163: the wake pulse starts an attempt; the pending progress report is emptied. -/
def wakeStart (s : State) : State :=
  let s1 := s.setSeq { s.seq with
    state := .awaitGood
    wake := .running Config.wakePulse
    permit := true
    attempt := s.seq.attempt + 1
    outcome := { s.seq.outcome with used := s.seq.outcome.used + 1 }
    progress := 0
    contact := false
    finish := .done
    go := false
    transferDone := false
    good := .running Config.goodLimit }
  stateMark (s1.setLink { s1.link with report := [] })

/-- R138: the test for the wake. -/
def wakeTest (s : State) : State := if s.wakeReady then wakeStart s else s

/-- R137, R138: the SURGE request; the sequencer is told at once where the re-reading finds it granted. -/
def requestSurge (s : State) : State :=
  wakeTest (makeRequest .surge s.cfg.cost.surge s).1

/-- R149: LOAD granted in CLAIMING. -/
def loadGranted (s : State) : State := if s.seq.state = .claiming then requestSurge s else s

/-- R137: the LOAD request. -/
def requestLoad (s : State) : State :=
  let x := makeRequest .load s.cfg.cost.load s
  if x.2 then loadGranted x.1 else x.1

/-- R140, R141: FEED granted in BOOTING: the action becomes GO; the progress timer starts if contact was made. -/
def feedGranted (s : State) : State :=
  if s.seq.state = .booting then
    raise .goReady (s.setSeq { s.seq with
      go := true
      progressTimer := if s.seq.contact then .running Config.progress else s.seq.progressTimer })
  else s

/-- R140: the FEED request. -/
def requestFeed (s : State) : State :=
  let x := makeRequest .feed s.cfg.cost.feed s
  if x.2 then feedGranted x.1 else x.1

/-- R149: what the sequencer does when it is told of a grant. -/
def toldGranted (p : Pool) (s : State) : State :=
  match p with
  | .load => loadGranted s
  | .surge => wakeTest s
  | .feed => feedGranted s

/-- R111: the deferred request is made afresh. -/
def remakeDeferred (s : State) : State :=
  match s.claim.deferred with
  | none => s
  | some (p, u) =>
    let x := makeRequest p u (s.setClaim { s.claim with deferred := none })
    if x.2 then toldGranted p x.1 else x.1

/-- R101, R111: the sequencer is told of the grant of the active request; a RESTORE granted changes nothing in the
sequencer, and the deferred request is made afresh. -/
def tellGrant (s : State) : State :=
  match s.claim.request with
  | none => s
  | some r => if r.restore then remakeDeferred s else toldGranted r.pool s

/-- R95, R96: a re-reading with the sequencer told of a grant it finds. -/
def rereadTold (s : State) : State :=
  let x := reread s
  if x.2 then tellGrant x.1 else x.1

/-- R137: in CLAIMING the LOAD request is made once the own-holds record shows nothing held and no request is open. -/
def claimingStart (s : State) : State :=
  if s.seq.state = .claiming ∧ s.claim.ownHolds.isZero = true ∧ s.requestOpen = false then requestLoad s else s

/-- R137: entry to CLAIMING. -/
def enterClaiming (s : State) : State := claimingStart (enterState .claiming s)

/-- R111, R129: the engine is told "off": a RESTORE request is cancelled and the deferred request made afresh. -/
def noteOff (s : State) : State :=
  if s.powered = false ∧ s.restoring = true then remakeDeferred (cancelRequest s) else s

/-! ## The gate (R116, R119) -/

/-- R119: an evaluation of the gate; one that opens it sends the sequencer to CLAIMING. -/
def evaluateGate (s : State) : State :=
  if s.gateOpens then enterClaiming (s.setGate { s.gate with isOpen := true }) else s

/-- R137: in GATED with the gate OPEN for its night and standing RUNNING the sequencer enters CLAIMING. -/
def readGate (s : State) : State :=
  if s.seq.state = .gated ∧ s.gate.isOpen = true ∧ s.gate.night = s.seq.night ∧ s.seq.standing = .running then
    enterClaiming s
  else s

/-- R116, R121, R137: entry to GATED. -/
def enterGated (s : State) : State :=
  readGate (evaluateGate (enterState .gated (gateReady s.seq.night (emittedFor s.seq.night s))))

/-! ## Taking up a night (R133 to R136) -/

/-- R134: the first line of the table that holds; where none does the standing is kept. -/
def standingOf (n : NightRecord) (night : Word16) (was : Standing) : Standing :=
  if was = .aborted then .aborted
  else if n.id = night ∧ n.state = .ended ∧ n.aborted = true then .aborted
  else if was = .ended then .ended
  else if n.id ≠ night then .ended
  else match n.state with
    | .ended => .ended
    | .closing => .closing
    | .held => .held
    | .running => .running
    | .idle => was
    | .pending => was

/-- R133, R135, R136: what every taking-up sets: the night, its image and standing, the outcome record and the
emitted-marks set of the new night. -/
def takeUp (s : State) : State :=
  let n := s.replica.night
  emittedFor n.id (s.setSeq { s.seq with
    night := n.id
    image := n.image
    newerNight := false
    attempt := 0
    progress := 0
    standing := standingOf n n.id .running
    outcome := OutcomeRecord.fresh n.id
    swallowed := 0 })

/-- R133: a cost exceeds its pool's capacity in the pool table. -/
def State.costExceeds (s : State) : Bool :=
  decide (s.replica.pools.surge.capacity < s.cfg.cost.surge) || decide (s.replica.pools.load.capacity < s.cfg.cost.load)
    || decide (s.replica.pools.feed.capacity < s.cfg.cost.feed)

/-- R133, R135, R136: a night taken up and skipped. -/
def takeUpSkipped (reason : SkipReason) (s : State) : State :=
  setOutcome .skipped (some reason) (enterWith .skipped .skipped (takeUp s))

/-- R133: the night taken up with the desktop found powered. -/
def takeUpLocal (s : State) : State :=
  setOutcome .localUse none (enterWith .localUse .localUse (takeUp s))

/-- R133: the first line of the table that holds. -/
def takeUpRunning (s : State) : State :=
  if s.cfg.participates = false then takeUpSkipped .notParticipating s
  else if s.costExceeds then takeUpSkipped .costExceeds s
  else if s.pins.powerGood then takeUpLocal s
  else enterGated (takeUp s)

/-- R135: an idle station takes a night that closes or is aborted without having run for it. -/
def takeUpClosed (reason : SkipReason) (s : State) : State :=
  takeUpSkipped (if s.cfg.participates then reason else .notParticipating) s

/-- R136: at a terminal state the sequencer looks for a newer night, while IN_SYNC. -/
def lookNewer (s : State) : State :=
  if s.member.state = .inSync ∧ newer s.replica.night.id s.seq.night = true then
    if s.replica.night.underWay then takeUpRunning s
    else if s.seq.newerNight = true ∧ (s.replica.night.state = .closing ∨ s.replica.night.state = .ended) then
      takeUpSkipped .busyPrevious s
    else s
  else s

/-! ## Leaving for a terminal state -/

/-- R145: the desktop is off, or the shutdown timer ran out: FINISHING ends in DONE. -/
def finishDone (s : State) : State :=
  let s1 := s.setSeq { s.seq with shutdown := .stopped }
  let s2 := releaseAsk ((onlyPool .load).set .feed true) (noteOff (enterState .done s1))
  lookNewer (setOutcome s1.seq.finish.outcome none s2)

/-- R145: what entry to FINISHING does beside the state: the timers, the release of FEED if held, and DONE at once
where POWER_GOOD is deasserted. -/
def finishingActs (s : State) : State :=
  let s1 := releaseAsk (onlyPool .feed) (s.setSeq { s.seq with
    go := false
    contactTimer := .stopped
    progressTimer := .stopped
    shutdown := .running Config.shutdown })
  if s1.pins.powerGood then s1 else finishDone s1

/-- R145: entry to FINISHING with a finishing outcome. -/
def enterFinishing (f : FinishOutcome) (s : State) : State :=
  finishingActs (enterState .finishing (setFinish f s))

/-- R137, R151: the station goes to LOCAL from GATED or CLAIMING. -/
def localEntry (s : State) : State :=
  let s1 := releaseAsk everyPool (cancelAll s)
  lookNewer (setOutcome .localUse none (enterWith .localUse .localUse s1))

/-- R148: the station skips: SKIPPED with the reason where no attempt was used, the other outcome otherwise. -/
def skipNight (reason : SkipReason) (after : NightOutcome) (s : State) : State :=
  let s1 := enterWith .skipped .skipped (releaseAsk everyPool (cancelAll s))
  lookNewer (if s.seq.outcome.used = 0 then setOutcome .skipped (some reason) s1 else setOutcome after none s1)

/-- R152: a long press: the phase timers stop, every pool is released and the station enters LOCAL. -/
def longPress (s : State) : State :=
  localEntry (s.setSeq { s.seq with
    good := .stopped, settle := .stopped, contactTimer := .stopped, progressTimer := .stopped
    shutdown := .stopped, cooldown := .stopped, go := false })

/-- R146: an attempt fails. -/
def failAttempt (c : Cause) (s : State) : State :=
  let s1 := s.setSeq { s.seq with
    outcome := { s.seq.outcome with causes := s.seq.outcome.causes ++ [c] }
    permit := false
    good := .stopped, settle := .stopped, contactTimer := .stopped, progressTimer := .stopped
    go := false
    cooldown := .running Config.cooldown }
  enterState .cooldown (releaseAsk everyPool (cancelAll s1))

/-! ## Booting (R139, R140) -/

/-- R140: what entry to BOOTING does beside the state. -/
def bootingActs (s : State) : State :=
  let s1 := s.setSeq { s.seq with
    go := false
    contactTimer := if s.seq.contact then s.seq.contactTimer else .running Config.contact }
  match s1.seq.standing with
  | .running | .held => requestFeed s1
  | .closing | .ended => enterFinishing .closedOut s1
  | .aborted => enterFinishing .aborted s1

/-- R139: the settle phase ends: SURGE is given back, SURGE_END is handed over with BOOTING, and BOOTING is entered. -/
def settleEnds (s : State) : State :=
  bootingActs (enterWith .surgeEnd .booting (releaseAsk (onlyPool .surge)
    (s.setSeq { s.seq with settle := .stopped })))

/-! ## Cooldown (R147) -/

/-- R147: the cooldown decision. -/
def cooldownEnds (s : State) : State :=
  if s.cfg.retryLimit < s.seq.outcome.used then
    lookNewer (setOutcome .failed none (enterWith .failed .failed s))
  else match s.seq.standing with
    | .running => enterClaiming s
    | .held => enterGated s
    | .closing | .ended => lookNewer (setOutcome .closedOut none (enterWith .skipped .skipped s))
    | .aborted => lookNewer (setOutcome .aborted none (enterWith .skipped .skipped s))

/-! ## The night moving underneath (R134, R136, R148) -/

/-- R148: GATED at a change of standing. -/
def gatedStanding (s : State) : State :=
  match s.seq.standing with
  | .held => s
  | .running => readGate s
  | .closing | .ended => skipNight .closed .closedOut s
  | .aborted => skipNight .aborted .aborted s

/-- R148: CLAIMING at a change of standing; on HELD the station goes back to GATED. -/
def claimingStanding (s : State) : State :=
  match s.seq.standing with
  | .held => enterGated (releaseAsk everyPool (cancelAll s))
  | .running => s
  | .closing | .ended => skipNight .closed .closedOut s
  | .aborted => skipNight .aborted .aborted s

/-- R148: BOOTING at a change of standing, by the action. -/
def bootingStanding (s : State) : State :=
  match s.seq.standing, s.seq.go with
  | .held, _ | .running, _ => s
  | .closing, false => enterFinishing .closedOut (cancelFor .feed s)
  | .closing, true => s
  | .ended, false => enterFinishing .closedOut (cancelFor .feed (setLate s))
  | .ended, true => setLate s
  | .aborted, false => enterFinishing .aborted (cancelFor .feed (setLate s))
  | .aborted, true => enterFinishing .aborted (setLate s)

/-- R148: IMAGING at a change of standing. -/
def imagingStanding (s : State) : State :=
  match s.seq.standing with
  | .held | .running | .closing => s
  | .ended => setLate s
  | .aborted => setFinish .aborted (setLate s)

/-- R148: the states that only set the late flag. -/
def lateStanding (s : State) : State :=
  match s.seq.standing with
  | .held | .running | .closing => s
  | .ended | .aborted => setLate s

/-- R148: the reaction to a change of standing, by state. -/
def standingReaction (s : State) : State :=
  match s.seq.state with
  | .gated => gatedStanding s
  | .claiming => claimingStanding s
  | .booting => bootingStanding s
  | .imaging => imagingStanding s
  | .awaitGood | .settle | .finishing | .cooldown => lateStanding s
  | .standby | .done | .failed | .skipped | .localUse => s

/-- R134, R148: the standing is worked out again, with the reaction to a change. -/
def workStanding (s : State) : State :=
  let st := standingOf s.replica.night s.seq.night s.seq.standing
  if st = s.seq.standing then s else standingReaction (s.setSeq { s.seq with standing := st })

/-- R136: the newer-night flag. -/
def noteNewer (s : State) : State :=
  let n := s.replica.night
  if newer n.id s.seq.night = true ∧ n.state ≠ .pending ∧ ¬ (n.state = .held ∧ n.heldFrom = .pending) then
    s.setSeq { s.seq with newerNight := true }
  else s

/-- R134, R136: a busy sequencer at a notice or a review. -/
def busyNotice (s : State) : State := workStanding (noteNewer s)

/-- R133 to R136: the applier's notice that the night state or the aborted flag has changed. -/
def nightNotice (aborted : Bool) (s : State) : State :=
  if s.idle then
    match s.replica.night.state with
    | .running => takeUpRunning s
    | .closing => takeUpClosed .closed s
    | .ended => if aborted then takeUpClosed .aborted s else s
    | .idle | .pending | .held => s
  else busyNotice s

/-! ## What the engine tells (R149) -/

/-- R149: pools lost to a reclaim. -/
def toldLost (lost : PerPool Bool) (s : State) : State :=
  match s.seq.state with
  | .claiming =>
    if lost.load then requestLoad (releaseAsk (onlyPool .surge) (cancelFor .surge s)) else claimingStart s
  | .booting =>
    if lost.feed then requestFeed (s.setSeq { s.seq with go := false, progressTimer := .stopped }) else s
  | .standby | .gated | .awaitGood | .settle | .imaging | .finishing | .cooldown | .done | .failed | .skipped
  | .localUse => s

/-! ## Contact and reports (R141 to R144) -/

/-- R141: the states that belong to an attempt, in which a read of the boot record makes contact (log 27). -/
def SeqState.inAttempt : SeqState → Bool
  | .awaitGood | .settle | .booting | .imaging | .finishing => true
  | .standby | .gated | .claiming | .cooldown | .done | .failed | .skipped | .localUse => false

/-- R141: the first read pass of the boot record since the wake pulse sets the contact flag and stops the contact
timer; in BOOTING with action GO the progress timer starts. -/
def bootRecordRead (s : State) : State :=
  if s.seq.contact = false ∧ s.seq.state.inAttempt = true then
    s.setSeq { s.seq with
      contact := true
      contactTimer := .stopped
      progressTimer := if s.seq.state = .booting ∧ s.seq.go = true then .running Config.progress
        else s.seq.progressTimer }
  else s

/-- R142: the tests of a progress report, in order. -/
def judgeReport (s : State) (progress : Nat) : ReportStatus :=
  if ¬ (s.seq.state = .booting ∨ s.seq.state = .imaging) then .wrongState
  else if s.bootAction ≠ .go then .notGo
  else if Config.maxProgress < progress then .range
  else if progress < s.seq.progress then .decreasing
  else .accepted

/-- R143, 1: the first accepted report in BOOTING is taken into IMAGING. -/
def firstReport (s : State) : State :=
  if s.seq.state = .booting then enterWith .booted .imaging s else s

/-- R143, 3: the first report of the attempt that carries TRANSFER_DONE or IMAGE_COMPLETE. -/
def transferReport (s : State) : State :=
  milestone .transferred (releaseAsk (onlyPool .feed) (s.setSeq { s.seq with transferDone := true }))

/-- R143, 4: IMAGE_COMPLETE. -/
def imageReport (s : State) : State :=
  finishingActs (enterWith .imaged .finishing (if s.seq.finish = .aborted then s else setFinish .done s))

/-- R143: the flags of an accepted report, in order, then the comparator. -/
def reportFlags (progress : Nat) (transfer image failed : Bool) (s : State) : State :=
  let s1 := firstReport s
  if failed then failAttempt .agentFailed s1
  else
    let first := (transfer || image) && !s1.seq.transferDone
    let s2 := if first then transferReport s1 else s1
    let s3 := if image then imageReport s2 else s2
    let later : Option MarkKind := if image then some .imaged else if first then some .transferred else none
    comparator progress later s3

/-- R142: an accepted report: progress, the progress timer, the flags, and the progress of a WAITING MARK (R126). -/
def acceptReport (progress : Nat) (transfer image failed : Bool) (s : State) : State :=
  progressMark (reportFlags progress transfer image failed
    (s.setSeq { s.seq with progress := progress, progressTimer := .running Config.progress }))

/-- R142: a progress report is judged; a refusal raises REPORT_REFUSED and changes nothing else. -/
def takeReport (progress : Nat) (transfer image failed : Bool) (s : State) : State :=
  if judgeReport s progress = .accepted then acceptReport progress transfer image failed s
  else raise .reportRefused s

/-! ## The review at entry to IN_SYNC (R150) -/

/-- R150, 1 and 2: an idle station takes up a night under way; a terminal one looks for a newer night. -/
def reviewIdle (s : State) : State :=
  if s.seq.state = .standby then (if s.replica.night.underWay then takeUpRunning s else s)
  else if s.seq.state.terminal then lookNewer s
  else s

/-- R150: the review, in its order. -/
def review (s : State) : State :=
  let s1 := reviewIdle s
  let s2 := if s1.idle then s1 else busyNotice s1
  readGate (wakeTest s2)

end Sys2Proof.Machine
end

