-- ==== Sys2Proof/Machine/Outcomes.lean ====
section
/-! DEFINITION. What the Claim Engine does at the notices of an application (R100 to R110), when its slots empty or
return to WAITING, and at entry to IN_SYNC (R113, R114). -/

namespace Sys2Proof.Machine

/-! ## Own outcomes (R101, R103, R106) -/

/-- R101: whether a frame of a pool is that of the request still wanted. -/
def State.wants (s : State) (p : Pool) : Bool :=
  match s.claim.request with
  | some r => !s.claim.orphan && r.state != .granted && r.pool == p
  | none => false

/-- R94, R101, R103: a non-grant of the request still wanted: patience rises, and the re-reading waits for the slot. -/
def lostRound (s : State) : State := setRequestState .parked (raisePatience s)

/-- R103: the own reservation of a pool is cleared. -/
def dropReservation (p : Pool) (s : State) : State :=
  if s.claim.ownReservation = some p then recordReservation none s else s

/-- R101: the units of an own CLAIM that count as granted: recorded and told if still wanted, released otherwise. -/
def claimWon (p : Pool) (units : Nat) (s : State) : State :=
  if s.wants p then tellGrant (grantRequest p units s)
  else releaseAsk (onlyPool p) (recordHold p units s)

/-- R101: the outcome of this station's own CLAIM. -/
def ownClaim (pool units : Byte) (v : Verdict) (s : State) : State :=
  match Pool.ofCode pool with
  | none => s
  | some p =>
    if v = .made then claimWon p units.toNat (dropReservation p s)
    else if v = .refused ∧ s.shownHold p ≠ 0 then claimWon p (s.shownHold p) s
    else if s.wants p then lostRound s
    else s

/-- R103: the outcome of this station's own PARK. -/
def ownPark (pool : Byte) (v : Verdict) (s : State) : State :=
  match Pool.ofCode pool with
  | none => s
  | some p =>
    if v = .made then
      let s1 := recordReservation (some p) s
      if s.wants p then setRequestState .parked s1 else wantUnpark p s1
    else if s.wants p then lostRound s
    else s

/-- R103: this station's own UNPARK, applied or void, clears the own reservation. -/
def ownUnpark (pool : Byte) (s : State) : State :=
  match Pool.ofCode pool with
  | none => s
  | some p => dropReservation p s

/-- R106: one pool of this station's own RELEASE: the record takes the hold the replica now shows, 0 where the part
applied. -/
def releaseOutcome (u : PerPool Nat) (p : Pool) (s : State) : State :=
  if u.get p = 0 then s else recordHold p (s.shownHold p) s

/-- R106: the outcome of this station's own RELEASE; the sequencer is told. -/
def ownRelease (u : PerPool Nat) (s : State) : State :=
  claimingStart (releaseOutcome u .feed (releaseOutcome u .load (releaseOutcome u .surge s)))

/-! ## Peers and night changes (R100, R103, R110) -/

/-- R100: a grant to another station on the pool of a request that is READY or PARKED. -/
def peerGrant (p : Pool) (s : State) : State :=
  match s.claim.request with
  | some r => if r.pool = p ∧ (r.state = .ready ∨ r.state = .parked) then raisePatience s else s
  | none => s

/-- R110: this station is the target of a RECLAIM that was made, or learns of the loss of these pools. -/
def losePools (lost : PerPool Bool) (s : State) : State :=
  toldLost lost (if lost.load = true ∧ s.powered = true then rereadTold (startRestore s) else s)

/-- R110: an applied RECLAIM names this station. -/
def reclaimedSelf (s : State) : State :=
  losePools (namedPools s.claim.ownHolds)
    (keepSync (s.setClaim { s.claim with ownHolds := PerPool.all 0, ownReservation := none }))

/-- R103: a night change has cleared the reservation this station held. -/
def nightClearedReservation (r0 : Replica) (s : State) : State :=
  match s.claim.ownReservation with
  | some p =>
    if (r0.pools.get p).reserver ≠ 0 ∧ (s.replica.pools.get p).reserver = 0 then recordReservation none s else s
  | none => s

/-- R41: what the engine does at the notice of an application, but for the re-reading; r0 is the replica before it. -/
def engineNotice (r0 : Replica) (own : Bool) (b : Body) (v : Verdict) (s : State) : State :=
  match b, own with
  | .claim p u _ _, true => ownClaim p u v s
  | .claim p _ _ _, false =>
    match Pool.ofCode p with
    | some pool => if v = .made then peerGrant pool s else s
    | none => s
  | .park p _, true => ownPark p v s
  | .unpark p, true => ownUnpark p s
  | .release us ul uf, true => ownRelease ⟨us.toNat, ul.toNat, uf.toNat⟩ s
  | .reclaim t _, _ => if v = .made ∧ t.toNat = s.cfg.station then reclaimedSelf s else s
  | .order .., _ => if v = .made then nightClearedReservation r0 s else s
  | .night .., _ => if v = .made then nightClearedReservation r0 s else s
  | _, _ => s

/-! ## Re-reading a PARKED request (R96) -/

/-- R96: whether an application is one at which a PARKED request is re-read: its pool's record or the night state
changed, or its patience rose. -/
def parkedConcerned (s0 s1 : State) (r : Request) : Bool :=
  s0.replica.pools.get r.pool != s1.replica.pools.get r.pool
    || s0.replica.night.state != s1.replica.night.state
    || (match s0.claim.request with
        | some r0 => decide (r0.patience < r.patience)
        | none => false)

/-- R96: one re-reading after an application, of a PARKED request that it concerns; s0 is the state before it. -/
def rereadParked (s0 s : State) : State :=
  match s.claim.request with
  | some r => if r.state = .parked ∧ parkedConcerned s0 s r = true then rereadTold s else s
  | none => s

/-! ## The claim slot (R95 to R98, R103) -/

/-- R95, R96: the claim slot has emptied: an UNPARK that waits goes first, then the re-reading. -/
def claimEmptied (s : State) : State := rereadTold (tryUnpark s)

/-- The frame that left the claim slot is forgotten: its age timer (R97) and the mark that it was not wanted. -/
def claimLeft (s : State) : State :=
  s.setClaim { s.claim with claimAge := .stopped, ageExpired := false, orphan := false }

/-- R103: an own UNPARK dropped at the veto limit is placed again if the replica still shows the reservation. -/
def unparkDropped (b : Body) (s : State) : State :=
  match b with
  | .unpark code =>
    match Pool.ofCode code with
    | some p => wantUnpark p s
    | none => s
  | _ => s

/-- R97, R98: the claim slot returned to WAITING: a frame no longer wanted, or one whose age ran out, is withdrawn. -/
def claimWaiting (s : State) : State :=
  if s.claim.orphan || s.claim.ageExpired then claimEmptied (claimLeft (withdraw .claim s)) else s

/-! ## The release slot (R22, R106) -/

/-- The release units held back, with none left held back. -/
def clearHeldRelease (s : State) : State := s.setRli { s.rli with heldRelease := PerPool.all 0 }

/-- R22, R106: units to be sent: placed while IN_SYNC, owed otherwise. -/
def sendRelease (u : PerPool Nat) (s : State) : State :=
  if s.member.state = .inSync then placeRelease u s else owePools (namedPools u) s

/-- R22: after delivery the units held back go out in a frame of their own. -/
def releaseDelivered (s : State) : State := sendRelease s.rli.heldRelease (clearHeldRelease s)

/-- R106: after a drop each pool of the frame, and of a merge held back, that the record still shows held. -/
def releaseDropped (b : Body) (s : State) : State :=
  sendRelease (s.unitsOf (namedPools (mergeUnits b.released s.rli.heldRelease))) (clearHeldRelease s)

/-- R22: the slot returned to WAITING and takes the units held back. -/
def releaseWaiting (s : State) : State := placeRelease s.rli.heldRelease (clearHeldRelease s)

/-- R106, R112: a RELEASE withdrawn or cleared hands its pools, and those held back, to the owed-release set. -/
def releaseLost (b : Body) (s : State) : State :=
  owePools (namedPools (mergeUnits b.released s.rli.heldRelease)) (clearHeldRelease s)

/-! ## Entry to IN_SYNC (R113, R114) -/

/-- R113: the pools the record shows held and the replica does not, which are not owed. -/
def State.lostPools (s : State) : PerPool Bool :=
  PerPool.ofFun fun p => s.claim.ownHolds.get p != 0 && s.shownHold p == 0 && !s.claim.owed.get p

/-- R113: the pools the replica shows held and the record does not. -/
def State.foundPools (s : State) : PerPool Bool :=
  PerPool.ofFun fun p => s.claim.ownHolds.get p == 0 && s.shownHold p != 0

/-- R113: the record follows the replica, in every pool (log 13). -/
def takeRecord (s : State) : State :=
  keepSync (s.setClaim { s.claim with ownHolds := PerPool.ofFun s.shownHold })

/-- R113: the own reservation takes the pool for which the replica shows this station as reserver (log 26). -/
def takeReservation (s : State) : State :=
  recordReservation (PerPool.first (PerPool.ofFun s.reserves)) s

/-- R113: an UNPARK is wanted for each reservation that the active request cannot use. -/
def unparkUnusable (s : State) : State :=
  let due := PerPool.ofFun fun p => s.reserves p && (match s.claim.request with
    | some r => r.pool != p || r.state == .granted
    | none => true)
  tryUnpark (s.setClaim { s.claim with unparkDue := due })

/-- R113: the pools found held that the active request does not want. -/
def State.unwantedPools (s : State) (found : PerPool Bool) : PerPool Bool :=
  PerPool.ofFun fun p => found.get p && !s.wants p

/-- R113: pools found held: the others are released at once, and the active request for one is GRANTED and told. -/
def poolsFound (found : PerPool Bool) (s : State) : State :=
  let s1 := releaseAsk (s.unwantedPools found) s
  match s1.claim.request with
  | some r => if found.get r.pool = true ∧ s.wants r.pool = true then tellGrant (setGranted s1) else s1
  | none => s1

/-- R113: the reconciliation. The RESTORE request comes before the UNPARKs are judged, and the sequencer is told after
both; in CLAIMING it asks for LOAD where the record now shows nothing held (R137). -/
def reconcile (s : State) : State :=
  let lost := s.lostPools
  let found := s.foundPools
  let s1 := takeReservation (takeRecord s)
  let s2 := if lost.load = true ∧ s1.powered = true then startRestore s1 else s1
  claimingStart (toldLost lost (poolsFound found (unparkUnusable s2)))

/-- R114, 1: owed releases go out in one frame for the holds the replica still shows; the set is then empty. -/
def settleOwed (s : State) : State :=
  placeRelease (PerPool.ofFun fun p => if s.claim.owed.get p then s.shownHold p else 0)
    (s.setClaim { s.claim with owed := PerPool.all false })

/-- R113, R114: what the engine does at entry to IN_SYNC. -/
def engineEntry (s : State) : State :=
  let s1 := rereadTold (settleOwed (reconcile s))
  judgeWatch (s1.setClaim { s1.claim with watching := true })

end Sys2Proof.Machine
end

