-- ==== Sys2Proof/Machine/Night.lean ====
section
/-! DEFINITION. The Night Unit (chapter 4): the checks of an order message and its relay (R73 to R77), the
remaining-time counts and due flags (R83, R84), the wanted step (R85) and what an applied ORDER or NIGHT does here. -/

namespace Sys2Proof.Machine

/-! ## Order messages (R71 to R76) -/

/-- R71: the receiver runs in every membership state but LOADING and UNCONFIGURED. -/
def State.orderReceiving (s : State) : Bool := s.marksAllowed

/-- R73: the action-specific tests of a message against the replica; none where all pass. -/
def actionTests (n : NightRecord) (m : OrderMsg) : Option RejectReason :=
  match m.action with
  | .new =>
    if newer m.id n.id = false then some .notNewer
    else if n.state ≠ .idle ∧ n.state ≠ .ended then some .nightActive
    else if minutesInRange m.start.toNat m.deadline.toNat m.grace.toNat = false then some .range
    else none
  | .hold =>
    if m.id ≠ n.id then some .wrongId
    else if n.state ≠ .pending ∧ n.state ≠ .running then some .wrongState
    else none
  | .resume =>
    if m.id ≠ n.id then some .wrongId
    else if n.state ≠ .held then some .wrongState
    else none
  | .abort =>
    if m.id ≠ n.id then some .wrongId
    else if n.state = .idle ∨ n.state = .ended then some .wrongState
    else none

/-- R76: the relay built from a message and the night record. -/
def relayBody (n : NightRecord) (m : OrderMsg) : Body :=
  match m.action with
  | .new => .order m.id m.image m.start m.deadline m.grace m.capacities.surge m.capacities.load m.capacities.feed
  | .hold => .night m.id NightAction.hold.code n.state.code NightState.held.code
  | .resume => .night m.id NightAction.resume.code NightState.held.code n.heldFrom.state.code
  | .abort => .night m.id NightAction.abort.code n.state.code NightState.ended.code

/-- R73, tests 1 to 3. -/
def formTests (m : List Byte) : Option RejectReason :=
  if m.length < 2 ∨ byteAt m 0 ≠ Config.sync0 ∨ byteAt m 1 ≠ Config.sync1 then some .badSync
  else if m.length ≠ Config.messageLength then some .badLength
  else if messageCheckOk m = false then some .badCheck
  else none

/-- R73, tests 4 to 8, of a message whose form is good. -/
def State.contentTests (s : State) (m : List Byte) : Except RejectReason OrderMsg :=
  if wordAt m 2 ≠ s.cfg.rowTag then .error .wrongRow
  else if s.member.state ≠ .inSync then .error .notSynced
  else match OrderAction.ofCode (byteAt m 6) with
    | none => .error .badAction
    | some a =>
      match actionTests s.replica.night (readOrder m a) with
      | some reason => .error reason
      | none => if s.slot .order = .empty then .ok (readOrder m a) else .error .busy

/-- R75: a message is rejected. -/
def rejectMessage (reason : RejectReason) (s : State) : State :=
  s.setNight { s.night with rejected := s.night.rejected + 1, lastReason := reason }

/-- R75, R76: a message is accepted: its relay is placed and the message kept behind it. -/
def acceptMessage (m : OrderMsg) (s : State) : State :=
  place .order (relayBody s.replica.night m)
    (s.setNight { s.night with accepted := s.night.accepted + 1, relay := some m })

/-- R73: the check of a message that has ended. -/
def checkMessage (m : List Byte) (s : State) : State :=
  match formTests m with
  | some reason => rejectMessage reason s
  | none =>
    let s1 := s.setNight { s.night with lastId := messageId m }
    match s1.contentTests m with
    | .error reason => rejectMessage reason s1
    | .ok o => acceptMessage o s1

/-- R71: the receiver keeps the first 21 bytes of the message and counts every byte. -/
def receiveMessage (m : List Byte) (s : State) : State :=
  s.setNight { s.night with rxBytes := m.take Config.messageLength, rxCount := m.length }

/-- R71: the receiver has seen a silence of more than 5 ms. -/
def sawSilence (s : State) : State := s.setNight { s.night with awaitsSilence := false }

/-- R71, R73: bytes have ended in silence. Those that began after a silence are a message, checked at once. Those that
did not are a message cut in two by the end of LOADING: no message, but their silence is the first seen. With no silence
awaited there are none such (log 1). -/
def orderSilence (line : LineBytes) (s : State) : State :=
  if line.afterSilence then checkMessage line.bytes (receiveMessage line.bytes (sawSilence s)) else sawSilence s

/-! ## The relay (R76, R77) -/

/-- R76: the relay is finished or lost. -/
def forgetRelay (s : State) : State := s.setNight { s.night with relay := none }

/-- R77: a WAITING relay is judged again after a change of the night record. -/
def rejudgeRelay (s : State) : State :=
  match s.slot .order, s.night.relay with
  | .waiting q, some m =>
    match actionTests s.replica.night m with
    | some _ => forgetRelay (s.setSlot .order .empty)
    | none =>
      if relayBody s.replica.night m = q.body then s
      else s.setSlot .order (fresh (relayBody s.replica.night m))
  | _, _ => s

/-! ## Steps (R85) -/

/-- R85: the from-state and to-state of the wanted step. -/
def State.wantedStep (s : State) : Option (NightState × NightState) :=
  let st := s.replica.night.state
  if s.night.deadlineDue = true ∧ (st = .pending ∨ st = .running ∨ st = .held) then some (st, .closing)
  else if s.night.startDue = true ∧ st = .pending then some (.pending, .running)
  else if s.night.graceDue = true ∧ st = .closing then some (.closing, .ended)
  else none

/-- R85: the frame of a step. -/
def stepBody (n : NightRecord) (f t : NightState) : Body := .night n.id NightAction.step.code f.code t.code

/-- R85: the frame of the wanted step. -/
def State.wantedBody (s : State) : Option Body :=
  s.wantedStep.map fun x => stepBody s.replica.night x.1 x.2

/-- R85: the wanted step is worked out and the night slot acted on, while IN_SYNC (log 17). -/
def workStep (s : State) : State :=
  if s.member.state ≠ .inSync then s
  else match s.slot .night, s.wantedBody with
    | .empty, some b => s.setSlot .night (fresh b)
    | .empty, none => s
    | .waiting q, some b => if q.body = b then s else s.setSlot .night (fresh b)
    | .waiting _, none => s.setSlot .night .empty
    | .sending _ _ _, _ => s

/-! ## Counts and due flags (R83, R84, R87) -/

/-- R84: whether the night allows the start flag's step. -/
def startAllowed (n : NightRecord) : Bool :=
  n.state == .pending || (n.state == .held && n.heldFrom == .pending)

/-- R84: whether the night allows the deadline flag's step. -/
def deadlineAllowed (n : NightRecord) : Bool := n.state == .pending || n.state == .running || n.state == .held

/-- R84: a count expires: it stops, and its flag is set if the night state allows the flag's step. -/
def expireCount (c : NightCount) (s : State) : State :=
  match c with
  | .start => s.setNight { s.night with
      start := .stopped, startDue := s.night.startDue || startAllowed s.replica.night }
  | .deadline => s.setNight { s.night with
      deadline := .stopped, deadlineDue := s.night.deadlineDue || deadlineAllowed s.replica.night }
  | .grace => s.setNight { s.night with
      grace := .stopped, graceDue := s.night.graceDue || s.replica.night.state == .closing }

/-- R83: a count by name. -/
def NightUnit.count (u : NightUnit) : NightCount → Timer
  | .start => u.start
  | .deadline => u.deadline
  | .grace => u.grace

/-- R83: a count set. -/
def setCount (c : NightCount) (t : Timer) (s : State) : State :=
  match c with
  | .start => s.setNight { s.night with start := t }
  | .deadline => s.setNight { s.night with deadline := t }
  | .grace => s.setNight { s.night with grace := t }

/-- Minutes in milliseconds. -/
def minutesMs (minutes : Nat) : Nat := minutes * 60000

/-- R63, R83: a count of a duration runs as though started this age ago; one with no time left expires at once. -/
def runCount (c : NightCount) (duration age : Nat) (s : State) : State :=
  if duration ≤ age then expireCount c s else setCount c (.running (duration - age)) s

/-- R28, R83: every count stops and every due flag is cleared. -/
def clearCounts (s : State) : State :=
  s.setNight { s.night with
    start := .stopped, deadline := .stopped, grace := .stopped
    startDue := false, deadlineDue := false, graceDue := false }

/-- R83, R84: what the night state's becoming RUNNING, CLOSING or ENDED stops and clears. -/
def countsAt (t : NightState) (s : State) : State :=
  match t with
  | .running => s.setNight { s.night with start := .stopped, startDue := false }
  | .closing => s.setNight { s.night with
      start := .stopped, startDue := false, deadline := .stopped, deadlineDue := false }
  | .ended => clearCounts s
  | .idle | .pending | .held => s

/-- R78, R83: an ORDER that was made, of this age. -/
def orderCounts (age : Nat) (s : State) : State :=
  let n := s.replica.night
  let s1 := clearCounts s
  let s2 := if n.start = 0 then s1 else runCount .start (minutesMs n.start) age s1
  runCount .deadline (minutesMs n.deadline) age s2

/-- R80, R83: a NIGHT that was made, of this age; the step into CLOSING starts the grace count. -/
def nightCounts (age : Nat) (s : State) : State :=
  let n := s.replica.night
  let s1 := countsAt n.state s
  if n.state = .closing then runCount .grace (minutesMs n.grace) age s1 else s1

/-- R81: NIGHT_RUNNING, where the application made the night RUNNING. -/
def raiseRunning (s : State) : State := if s.replica.night.state = .running then raise .nightRunning s else s

/-- R120: gate patience after the application of an ORDER or NIGHT that was made. -/
def patienceRunning (s : State) : State := if s.replica.night.state = .running then startPatience s else s

/-- R81: whether a NIGHT frame's action is ABORT. -/
def Body.aborts : Body → Bool
  | .night _ a _ _ => a == NightAction.abort.code
  | _ => false

/-- R83, R81, R77, R120: what the Night Unit and the gate-patience timer do at an ORDER or NIGHT that was made; age is 0
at a live delivery. -/
def nightApplied (b : Body) (age : Nat) (s : State) : State :=
  match b with
  | .order .. => rejudgeRelay (patienceRunning (stopPatience (raiseRunning (orderCounts age s))))
  | .night .. =>
    let s1 := raiseRunning (nightCounts age s)
    rejudgeRelay (patienceRunning (if b.aborts then raise .abortPosted s1 else s1))
  | _ => s

/-- R84: the flag of each count that run 0 carries. -/
def runStatus (run0 : List Byte) : Byte := byteAt run0 6

/-- R87: a count carried in whole seconds; 0 is a stopped count. -/
def carriedCount (seconds : Nat) : Timer := if seconds = 0 then .stopped else .running (seconds * 1000)

/-- R62, R87, R180: the counts and flags set from run 0; the night state has been installed. -/
def countsFromRun0 (run0 : List Byte) (s : State) : State :=
  let a := (wordAt run0 13).toNat
  let b := (wordAt run0 15).toNat
  let closing := s.replica.night.state == .closing
  s.setNight { s.night with
    start := if closing then .stopped else carriedCount a
    deadline := if closing then .stopped else carriedCount b
    grace := if closing then carriedCount a else .stopped
    startDue := (runStatus run0).getLsbD 5
    deadlineDue := (runStatus run0).getLsbD 6
    graceDue := (runStatus run0).getLsbD 7 }

end Sys2Proof.Machine
end

