-- ==== Sys2Proof/Machine/CatchUp.lean ====
section
/-! DEFINITION. The answerer side and the series watch (R52 to R57), and the application of a delivered frame with its
notices (R36, R41), live or replayed. -/

namespace Sys2Proof.Machine

/-! ## The answerer side (R52 to R54, R57) -/

/-- R54: run 0 with the values as they stand. -/
def State.run0Body (s : State) : Body := .run (byteOf s.member.asker) 0 (run0Payload s.replica.night s.night)

/-- R57: run k from a snapshot; only run 0 carries the asker, the other runs carry 0 (log 35). -/
def runBody (snap : Snapshot) (k : Nat) : Body := .run 0 (byteOf k) (runPayload snap k)

/-- Whether a body is run 0. -/
def Body.isRun0 : Body → Bool
  | .run _ index _ => index == 0
  | _ => false

/-- R53, R54: the series source has run 0 placed. -/
def placeRun0 (s : State) : State := place .series s.run0Body s

/-- R53, R55: answer-pending is set for an asker, and run 0 placed. -/
def startAnswer (asker : Nat) (s : State) : State :=
  placeRun0 (s.setMember { s.member with answerPending := true, asker := asker })

/-- R54: a WAITING run 0 is withdrawn and placed anew with the values as they stand. -/
def refreshRun0 (s : State) : State :=
  match s.slot .series with
  | .waiting q => if q.body.isRun0 then s.setSlot .series (fresh s.run0Body) else s
  | .empty => s
  | .sending _ _ _ => s

/-- R54: run 0 as its attempt begins, with its counts of loss and veto. -/
def currentRun0 (s : State) : State :=
  match s.slot .series with
  | .waiting q => if q.body.isRun0 then s.setSlot .series (.waiting { q with body := s.run0Body }) else s
  | .empty => s
  | .sending _ _ _ => s

/-- R52: the answerer side is cleared. -/
def clearAnswerer (s : State) : State :=
  s.setMember { s.member with
    answerPending := false, askHeld := false, asker := 0, position := 0, snapshot := none, pause := .stopped }

/-- R56, R57: the answerer stops sending its series. -/
def stopSeries (s : State) : State :=
  withdraw .series (s.setMember { s.member with position := 0, snapshot := none, pause := .stopped })

/-- R57: run k is placed from the snapshot, and the series position becomes k. DESIGN CHOICE (log 41): where the pause ends
while the slot holds the run 0 of a pending answer, the place is refused (R21), yet the position becomes k and the pause
stops, so that run k is not placed again. -/
def placeRun (k : Nat) (s : State) : State :=
  match s.member.snapshot with
  | some snap => place .series (runBody snap k) (s.setMember { s.member with position := k, pause := .stopped })
  | none => s

/-- R56, R57: the answerer's own run 0 has been delivered: the snapshot is taken and run 1 placed. -/
def beginSeries (s : State) : State :=
  placeRun 1 (s.setMember { s.member with snapshot := some { pools := s.replica.pools, roster := s.replica.roster } })

/-- R57: the answerer is told that run k has been delivered. -/
def runDelivered (k : Nat) (s : State) : State :=
  if s.member.position ≠ k ∨ s.member.snapshot = none then s
  else if k = 21 then s.setMember { s.member with position := 0, snapshot := none }
  else if k % 4 = 0 then s.setMember { s.member with pause := .running Config.seriesPause }
  else placeRun (k + 1) s

/-- R54, R57: the series slot has emptied: a pending answer has its run 0 placed (log 34). -/
def answerAgain (s : State) : State :=
  if s.member.state = .inSync ∧ s.member.answerPending = true then placeRun0 s else s

/-- R54, R57: the series source is told of the delivery of a run. -/
def seriesDelivered (b : Body) (s : State) : State :=
  match b with
  | .run _ index _ =>
    if s.member.state = .inSync then
      answerAgain (if index = 0 then beginSeries s else runDelivered index.toNat s)
    else s
  | _ => s

/-- R54, R57: a run is dropped at the veto limit: a series stops; a pending answer has run 0 placed afresh. -/
def seriesDropped (b : Body) (s : State) : State :=
  answerAgain (if b.isRun0 then s
    else s.setMember { s.member with position := 0, snapshot := none, pause := .stopped })

/-! ## The series watch (R55) -/

/-- R55: a series has ended or been abandoned: an ask that was held is answered. -/
def answerHeld (s : State) : State :=
  if s.member.askHeld then startAnswer 0 (s.setMember { s.member with askHeld := false }) else s

/-- R55: the watch is emptied; where a series was in progress it ends. -/
def endWatch (s : State) : State :=
  match s.member.watch with
  | some _ => answerHeld (s.setMember { s.member with watch := none })
  | none => s

/-- R55: the watch with a run just delivered. -/
def setWatch (answerer last : Nat) (s : State) : State :=
  s.setMember { s.member with
    watch := some { answerer := answerer, last := last, gap := .running Config.watchGap } }

/-- R55: the watch at an applied run. -/
def watchRun (sender k : Nat) (s : State) : State :=
  if k = 0 then setWatch sender 0 s
  else match s.member.watch with
    | some w =>
      if w.answerer = sender ∧ k = w.last + 1 ∧ k ≤ 20 then setWatch sender k s else endWatch s
    | none => s

/-- R56: run 0 applied: the answer is no longer pending; a peer's run 0 withdraws this station's and stops its
series. -/
def run0Applied (own : Bool) (s : State) : State :=
  let s1 := s.setMember { s.member with answerPending := false, askHeld := false, asker := 0 }
  if own then s1.setMember { s1.member with position := 0 }
  else if s.member.position ≠ 0 then stopSeries s1
  else match s1.slot .series with
    | .waiting q => if q.body.isRun0 then withdraw .series s1 else s1
    | .empty => s1
    | .sending _ _ _ => s1

/-- R53: a peer's ask applied. -/
def askApplied (sender : Nat) (s : State) : State :=
  if s.member.watch.isSome then s.setMember { s.member with askHeld := true }
  else if s.member.answerPending then s
  else startAnswer sender s

/-- R46, R53, R55, R56: what an applied ask or run does at an IN_SYNC station. -/
def catchUpNotice (own : Bool) (sender : Nat) (b : Body) (s : State) : State :=
  match b with
  | .ask => if own then s else askApplied sender s
  | .run _ index _ =>
    watchRun sender index.toNat (if index = 0 then run0Applied own s else s)
  | _ => s

/-! ## Applying a frame (R36, R41) -/

/-- R41: whether an application changed the night record. -/
def nightChanged (b : Body) (v : Verdict) : Bool :=
  v == .made && (match b with
    | .order .. => true
    | .night .. => true
    | _ => false)

/-- R36, R41: the application, with what it does in the Night Unit, the gate-patience timer and the Claim Engine, in a
live delivery (age 0) and in a replay alike. -/
def applyParts (own : Bool) (sender : Nat) (b : Body) (age : Nat) (s : State) : State :=
  let x := applyFrame s.replica sender b
  let s1 := s.setReplica x.1
  engineNotice s.replica own b x.2 (if x.2 = .made then nightApplied b age s1 else s1)

/-- R119: whether an application concerns the gate: the night, or the marks, state or presence of a used lead. -/
def gateConcerned (r0 : Replica) (s : State) : Bool :=
  r0.night.state != s.replica.night.state || r0.night.id != s.replica.night.id
    || s.usedLeads.any fun n =>
      let a := r0.entry n
      let b := s.replica.entry n
      a.marks != b.marks || a.state != b.state || a.presence != b.presence

/-- R41, R54, R85, R133: the notices of a change of the night record at a live delivery. -/
def nightNotices (b : Body) (s : State) : State := nightNotice b.aborts (refreshRun0 (workStep s))

/-- R46, R36, R41: a frame delivered at an IN_SYNC station is applied at once; the notices are acted on in a fixed order
(log 11). -/
def applyLive (own : Bool) (sender : Nat) (b : Body) (s : State) : State :=
  let s1 := rereadParked s (applyParts own sender b 0 s)
  let s2 := if nightChanged b (applyFrame s.replica sender b).2 then nightNotices b s1 else s1
  let s3 := if gateConcerned s.replica s2 then evaluateGate s2 else s2
  judgeWatch (catchUpNotice own sender b s3)

end Sys2Proof.Machine
end

