-- ==== Sys2Proof/Machine/Membership.lean ====
section
/-! DEFINITION. The Membership Unit (chapter 3): joining and asking, collecting, install and replay, entry to IN_SYNC,
DESYNC, ISOLATED and rejoin, and the hand-over of a delivered frame. -/

namespace Sys2Proof.Machine

/-! ## Joining and asking (R48 to R51) -/

/-- R48: the ask source places a CATCHUP_ASK; while its slot is SENDING the ask waits for the slot. -/
def placeAsk (s : State) : State :=
  match s.slot .ask with
  | .empty => s.setSlot .ask (fresh .ask)
  | .waiting _ => s
  | .sending _ _ _ => s.setRli { s.rli with askOwed := true }

/-- R48, R67: the joiner side is cleared. -/
def clearJoiner (s : State) : State :=
  s.setMember { s.member with
    askWait := .stopped, onlyAsks := false, adopted := none, buffer := [], seriesGap := .stopped
    lateRun := .none }

/-- R48: entry to JOINING. -/
def joinEntry (s : State) : State :=
  let s1 := clearJoiner s
  placeAsk (s1.setMember { s1.member with state := .joining, askCount := 0 })

/-- R67, R112: entry to ISOLATED; the collision count returns to 0 (R10). -/
def isolate (duplicate : Bool) (s : State) : State :=
  let s1 := suspendEngine (clearAnswerer (clearJoiner s))
  let s2 := s1.setMember { s1.member with
    state := .isolated, watch := none, cooldown := .running Config.isolatedCooldown }
  let s3 := raise .isolated (s2.setRli { s2.rli with collisions := 0 })
  if duplicate then raise .duplicateNumber s3 else s3

/-- R50: an ask is unsuccessful: a new ask, or ISOLATED at the fourth. -/
def askUnsuccessful (s : State) : State :=
  if Config.askLimit ≤ s.member.askCount then isolate false s
  else placeAsk (s.setMember { s.member with state := .joining })

/-- R60: the catch-up is abandoned. -/
def abandon (s : State) : State := askUnsuccessful (clearJoiner s)

/-- R60: the series gap timer expires: the catch-up is abandoned, and a station left JOINING takes the next expected run
as the one that falls together with the expiry (log 37). -/
def seriesGapOver (s : State) : State :=
  let s1 := abandon s
  match s1.member.state, s.member.adopted with
  | .joining, some a => s1.setMember { s1.member with lateRun := .awaited a.answerer a.next }
  | _, _ => s1

/-- R49: this station's own ask has been delivered; R60: the late run of an abandoned series has cleared the note. -/
def askDelivered (s : State) : State :=
  if s.member.state = .joining then
    s.setMember { s.member with
      askCount := s.member.askCount + 1, askWait := .running Config.askWait
      onlyAsks := s.member.lateRun != .heard, lateRun := .none }
  else s

/-- R50: this station's ask was dropped at the veto limit; it counts as a delivered one would. -/
def askDropped (s : State) : State :=
  if s.member.state = .joining then
    askUnsuccessful (s.setMember { s.member with askCount := s.member.askCount + 1 })
  else s

/-- R48: the ask slot has emptied: an ask that waited for it is placed. -/
def askEmptied (s : State) : State :=
  if s.rli.askOwed then placeAsk (s.setRli { s.rli with askOwed := false }) else s

/-! ## Entry to IN_SYNC (R64) -/

/-- R64: what the Membership Unit does itself at entry to IN_SYNC; the RLI restores the veto permission (R18). -/
def syncEntry (s : State) : State :=
  let s1 := clearAnswerer (clearJoiner s)
  let s2 := s1.setMember { s1.member with state := .inSync, askCount := 0, watch := none }
  s2.setRli { s2.rli with vetoRun := 0, permission := .granted }

/-- R64: entry to IN_SYNC, with what each block told does. -/
def enterSync (s : State) : State :=
  review (keepMark (evaluateGate (patienceAtSync (workStep (engineEntry (syncEntry s))))))

/-- The last-install record is written. -/
def recordInstall (answerer asker : Nat) (s : State) : State :=
  s.setMember { s.member with installAnswerer := answerer, installAsker := asker }

/-- R51: the station founds the row with the replica it holds. -/
def foundRow (s : State) : State := enterSync (recordInstall 0 0 s)

/-! ## Collecting (R58 to R61) -/

/-- R58: a series is adopted at the delivery of its run 0. -/
def adopt (sender : Nat) (asker : Byte) (payload : List Byte) (s : State) : State :=
  s.setMember { s.member with
    state := .collecting
    askWait := .stopped
    adopted := some { answerer := sender, next := 1, asker := asker.toNat, run0 := payload, runs := [] }
    buffer := []
    seriesGap := .running Config.seriesGap }

/-- R59: the frame is kept in the catch-up buffer; a seventeenth abandons. -/
def bufferFrame (a : Adopted) (own : Bool) (sender : Nat) (b : Body) (s : State) : State :=
  if s.member.buffer.length < Config.bufferLimit then
    s.setMember { s.member with buffer :=
      s.member.buffer ++ [{ sender := sender, body := b, own := own, lastRun := a.next - 1, age := 0 }] }
  else abandon s

/-- R61: the next expected run is stored. -/
def storeRun (a : Adopted) (payload : List Byte) (s : State) : State :=
  s.setMember { s.member with
    adopted := some { a with next := a.next + 1, runs := a.runs ++ [payload] }
    seriesGap := .running Config.seriesGap }

/-! ## Install and replay (R62, R63, R45) -/

/-- R45, R62: the common change of runs of the series. -/
def runsChange (answerer n : Nat) (s : State) : State := s.setReplica (commonChanges answerer n s.replica)

/-- R62, 3: a frame of the buffer is applied by the rules of its kind, its notices going to the other blocks; the counts
it started run from its age (R63). -/
def replayFrame (e : BufferEntry) (s : State) : State := applyParts e.own e.sender e.body e.age s

/-- R45, R62: the buffer is replayed among the common changes of the runs; done runs have had theirs. -/
def replay (answerer done : Nat) : List BufferEntry → State → State
  | [], s => runsChange answerer (21 - done) s
  | e :: rest, s =>
    replay answerer (max done e.lastRun) rest
      (replayFrame e (runsChange answerer (e.lastRun - done) s))

/-- R62, 1: the replica that a collected series writes; free is the model's counter (log 8). -/
def snapshotReplica (free : Nat) (run0 : List Byte) (runs : List (List Byte)) : Replica :=
  let pools := readPools (runs.headD [])
  { night := readNightRecord free run0 pools, pools := pools, roster := readRoster free 2 (runs.drop 1) }

/-- R62: install at run 21: write, counts, replay, record, entry to IN_SYNC. -/
def install (a : Adopted) (s : State) : State :=
  let s1 := (s.setReplica (snapshotReplica s.freeCount a.run0 a.runs)).setFreeCount (s.freeCount + 1)
  enterSync (recordInstall a.answerer a.asker
    (replay a.answerer 0 s.member.buffer (countsFromRun0 a.run0 s1)))

/-- R60, R61: a run delivered while COLLECTING that is not run 0. -/
def collectRun (a : Adopted) (sender k : Nat) (payload : List Byte) (s : State) : State :=
  if sender = a.answerer ∧ k = a.next ∧ runNumbersOk k payload = true then
    if k = 21 then install { a with next := a.next + 1, runs := a.runs ++ [payload] } s
    else storeRun a payload s
  else abandon s

/-! ## Hand-over (R46) -/

/-- R60: a peer's frame delivered while JOINING with no ask wait running: the next expected run of the series that the
gap's expiry abandoned clears the note of the ask wait that follows; any other frame is set aside. DESIGN CHOICE (log
37): which run, and which wait. -/
def lateFrame (sender : Nat) (b : Body) (s : State) : State :=
  match s.member.lateRun, b with
  | .awaited answerer next, .run _ index payload =>
    if sender = answerer ∧ index.toNat = next ∧ runNumbersOk next payload = true then
      s.setMember { s.member with lateRun := .heard }
    else s
  | _, _ => s

/-- R49, R58, R60: a frame delivered while JOINING. -/
def joiningFrame (own : Bool) (sender : Nat) (b : Body) (s : State) : State :=
  if own then s
  else if s.member.askWait.isRunning = false then lateFrame sender b s
  else match b with
    | .run asker index payload =>
      if index = 0 then adopt sender asker payload s
      else s.setMember { s.member with onlyAsks := false }
    | .ask => s
    | _ => s.setMember { s.member with onlyAsks := false }

/-- R46, R58 to R61: a frame delivered while COLLECTING. -/
def collectingFrame (own : Bool) (sender : Nat) (b : Body) (s : State) : State :=
  match b, s.member.adopted with
  | .run asker index payload, some a =>
    if index = 0 then adopt sender asker payload s else collectRun a sender index.toNat payload s
  | .run asker index payload, none => if index = 0 then adopt sender asker payload s else abandon s
  | _, some a => bufferFrame a own sender b s
  | _, none => s

/-- R46: what the Membership Unit does with a delivered frame. -/
def handOver (own : Bool) (sender : Nat) (b : Body) (s : State) : State :=
  match s.member.state with
  | .loading | .unconfigured | .isolated | .desync => s
  | .joining => joiningFrame own sender b s
  | .collecting => collectingFrame own sender b s
  | .inSync => applyLive own sender b s

/-! ## DESYNC and rejoin (R66, R69) -/

/-- R66, R69: the replica is cleared, and the Night Unit stops its counts and clears its flags. -/
def clearReplica (s : State) : State := clearCounts (s.setReplica Replica.cold)

/-- R106, R112: the pools of a WAITING RELEASE that is withdrawn or cleared become owed. -/
def oweWaiting (s : State) : State :=
  match s.slot .release with
  | .waiting q => releaseLost q.body s
  | .empty => s
  | .sending _ _ _ => s

/-- R66, 1: every WAITING slot except mark and ask is withdrawn; the relay is lost. -/
def desyncQueue (s : State) : State :=
  withdraw .series (withdraw .reclaim (withdraw .release (withdraw .claim (withdraw .night
    (withdraw .order (forgetRelay (oweWaiting s)))))))

/-- R66: an IN_SYNC station enters DESYNC and passes on to JOINING at once. -/
def desync (s : State) : State :=
  let s1 := clearAnswerer (desyncQueue s)
  let s2 := s1.setMember { s1.member with watch := none }
  joinEntry (clearReplica (suspendEngine (raise .desync s2)))

/-- R23: a slot at rejoin: WAITING is cleared, SENDING finishes its attempt first. -/
def Slot.cleared : Slot → Slot
  | .empty => .empty
  | .waiting _ => .empty
  | .sending q field _ => .sending q field true

/-- R23, R69: the outbound queue is cleared. -/
def clearQueue (s : State) : State :=
  let q := s.rli.queue
  s.setRli { s.rli with
    heldMark := .none
    queue :=
      { order := q.order.cleared, night := q.night.cleared, claim := q.claim.cleared, release := q.release.cleared
        reclaim := q.reclaim.cleared, mark := q.mark.cleared, ask := q.ask.cleared, series := q.series.cleared } }

/-- R98: a WAITING frame in the claim slot that is cleared is forgotten; no frame SENDING is. -/
def forgetClaimFrame (s : State) : State := if (s.slot .claim).isSending then s else claimLeft s

/-- R69: rejoin. -/
def rejoinStation (s : State) : State :=
  let s1 := clearQueue (forgetClaimFrame (forgetRelay (oweWaiting (clearReplica s))))
  let s2 := suspendEngine (clearAnswerer s1)
  let s3 := s2.setMember { s2.member with watch := none, cooldown := .stopped }
  joinEntry (s3.setRli { s3.rli with vetoRun := 0, collisions := 0, permission := .granted })

/-! ## Reports of the RLI (R65, R67) -/

/-- R65: the end of a veto run is reported. -/
def vetoRunReported (s : State) : State := if s.member.state = .inSync then desync s else s

/-- R67: a duplicate number is reported in a state in which slots contend. -/
def duplicateReported (s : State) : State :=
  match s.member.state with
  | .joining | .collecting | .inSync => isolate true s
  | .loading | .unconfigured | .desync | .isolated => s

end Sys2Proof.Machine
end

