-- ==== Sys2Proof/Machine/Attempts.lean ====
section
/-! DEFINITION. Attempts and frame ends on the row line (chapter 1): which frame is offered, how an attempt ends for its
slot and source, delivery and veto of own and received frames, the veto run and the collision count. -/

namespace Sys2Proof.Machine

/-! ## Starting an attempt (R4 to R8) -/

/-- R5: whether a slot may contend in a membership state. -/
def mayContend (st : MembershipState) (src : Source) : Bool :=
  match st with
  | .loading | .unconfigured | .isolated => false
  | .joining | .collecting | .desync => src == .mark || src == .ask
  | .inSync => true

/-- R6: the age of a queued frame: the active request's patience for CLAIM and PARK, the loss count otherwise. -/
def State.frameAge (s : State) (q : Queued) : Nat :=
  match q.body with
  | .claim _ _ _ _ | .park _ _ =>
    match s.claim.request with
    | some r => r.patience
    | none => 0
  | _ => q.loss

/-- R6: the contention field of a queued frame as it stands. -/
def State.fieldOf (s : State) (q : Queued) : Word16 :=
  contentionField ((kindClass q.body.kind).getD 3) (Config.maxLoss - min (s.frameAge q) Config.maxLoss) s.cfg.station

/-- R8: the field of a source's slot, where it is WAITING and may contend. -/
def State.candidate (s : State) (src : Source) : Option Word16 :=
  if mayContend s.member.state src then
    match s.slot src with
    | .waiting q => some (s.fieldOf q)
    | .empty => none
    | .sending _ _ _ => none
  else none

/-- R8: the lower field, the earlier slot between equals. -/
def betterOffer (s : State) (best : Option (Source × Word16)) (src : Source) : Option (Source × Word16) :=
  match s.candidate src, best with
  | none, _ => best
  | some f, none => some (src, f)
  | some f, some (b, g) => if f.toNat < g.toNat then some (src, f) else some (b, g)

/-- R8: the frame offered at the start of an attempt: its source and field. -/
def State.offer (s : State) : Option (Source × Word16) := Source.all.foldl (betterOffer s) none

/-- R4: an attempt can start: no frame of this station is SENDING and the stuck-line condition is clear. -/
def State.mayStart (s : State) : Bool := s.sendingSource.isNone && !s.rli.stuck

/-- R20: a WAITING slot becomes SENDING with its field. -/
def startSending (src : Source) (field : Word16) (s : State) : State :=
  match s.slot src with
  | .waiting q => s.setSlot src (.sending q field false)
  | .empty => s
  | .sending _ _ _ => s

/-- R4, R8: the start of an attempt; a run 0 goes out with the values as they stand (R54). -/
def startAttempt (s : State) : State :=
  if s.mayStart then
    let s1 := currentRun0 s
    match s1.offer with
    | some (src, f) => startSending src f s1
    | none => s
  else s

/-! ## The end of an attempt for its source (R14, R16, R17, R22, R23) -/

/-- R7, R9, R16, R22: the slot has returned to WAITING and its source acts. -/
def slotWaiting (src : Source) (s : State) : State :=
  match src with
  | .order => s
  | .night => workStep s
  | .claim => claimWaiting s
  | .release => releaseWaiting s
  | .reclaim => judgeWatch s
  | .mark => presentHeldMark s
  | .ask => s
  | .series => s

/-- R14: the source is told that its frame was delivered; its slot is EMPTY. -/
def toldDelivered (src : Source) (b : Body) (s : State) : State :=
  match src with
  | .order => forgetRelay s
  | .night => workStep s
  | .claim => claimEmptied (claimLeft s)
  | .release => releaseDelivered s
  | .reclaim => judgeWatch s
  | .mark => markDelivered b s
  | .ask => askEmptied (askDelivered s)
  | .series => seriesDelivered b s

/-- R17: the source is told that its frame was dropped; its slot is EMPTY. -/
def toldDropped (src : Source) (b : Body) (s : State) : State :=
  match src with
  | .order => forgetRelay s
  | .night => workStep s
  | .claim => claimEmptied (unparkDropped b (claimLeft s))
  | .release => releaseDropped b s
  | .reclaim => judgeWatch s
  | .mark => markDropped s
  | .ask => askEmptied (askDropped s)
  | .series => seriesDropped b s

/-- R23, R69: the source is told, at the end of the attempt, that rejoin cleared its slot (log 25). -/
def toldCleared (src : Source) (b : Body) (s : State) : State :=
  match src with
  | .order => forgetRelay s
  | .night => workStep s
  | .claim => claimEmptied (claimLeft s)
  | .release => releaseLost b s
  | .reclaim => judgeWatch s
  | .mark => presentHeldMark s
  | .ask => askEmptied s
  | .series => answerAgain s

/-- R7, R9, R16, R23: an attempt ends without delivery or drop: the slot returns to WAITING, or becomes EMPTY where
rejoin has cleared it. -/
def attemptBack (src : Source) (q : Queued) (cleared : Bool) (s : State) : State :=
  if cleared then toldCleared src q.body (s.setSlot src .empty)
  else slotWaiting src (s.setSlot src (.waiting q))

/-- R7: the loss count rises by one, stopping at 63. -/
def Queued.lost (q : Queued) : Queued := { q with loss := min (q.loss + 1) Config.maxLoss }

/-- R7: an arbitration is lost. -/
def loseArbitration (s : State) : State :=
  match s.sendingSource with
  | none => s
  | some src =>
    match s.slot src with
    | .sending q _ cleared => attemptBack src q.lost cleared (countArbLoss s)
    | .empty => s
    | .waiting _ => s

/-- R10: the collision count rises; the third is reported as a duplicate number. -/
def noteCollision (s : State) : State :=
  let s1 := s.setRli { s.rli with collisions := min (s.rli.collisions + 1) Config.collisionLimit }
  if s1.rli.collisions = Config.collisionLimit then duplicateReported s1 else s1

/-- R9: a collision. -/
def collide (s : State) : State :=
  match s.sendingSource with
  | none => s
  | some src =>
    match s.slot src with
    | .sending q _ cleared => noteCollision (attemptBack src q cleared s)
    | .empty => s
    | .waiting _ => s

/-! ## Vetoes (R5, R15, R17, R18) -/

/-- R5, R18, R19: whether this station's receiver may veto. -/
def State.mayVeto (s : State) : Bool :=
  (match s.member.state with
    | .joining | .collecting | .inSync => true
    | .loading | .unconfigured | .desync | .isolated => false)
    && s.rli.permission == .granted && !s.rli.stuck

/-- R18: the veto run returns to 0. -/
def resetVetoRun (s : State) : State := s.setRli { s.rli with vetoRun := 0 }

/-- R18: this station drove a veto: the run rises, and at 8 the permission is WITHHELD and the end of the run is
reported. -/
def raiseVetoRun (s : State) : State :=
  if s.rli.vetoRun + 1 < Config.vetoRunLimit then s.setRli { s.rli with vetoRun := s.rli.vetoRun + 1 }
  else vetoRunReported (s.setRli { s.rli with vetoRun := 0, permission := .withheld })

/-- R15, R18, R60: a received frame ends as vetoed; faulty says that this station found it malformed or lost framing on
it, on which it vetoes if it may; a COLLECTING station that did not veto such a frame abandons its catch-up. -/
def heardVetoed (faulty : Bool) (s : State) : State :=
  let s1 := countVetoed s
  if faulty = true ∧ s.mayVeto = true then raiseVetoRun s1
  else
    let s2 := resetVetoRun s1
    if faulty = true ∧ s2.member.state = .collecting then abandon s2 else s2

/-- R11, R12: a frame found malformed, or lost framing: RX_ERRORS rises and the frame ends as vetoed. DESIGN CHOICE
(log 40): a frame with a wrong spacer that then loses framing raises RX_ERRORS once. -/
def heardFaulty (s : State) : State := heardVetoed true (countRxError s)

/-- R17: the frame is dropped at the veto limit. -/
def dropFrame (src : Source) (q : Queued) (s : State) : State :=
  toldDropped src q.body (raise .lineFault (s.setSlot src .empty))

/-- R15 to R17, R23: this station's own frame has been vetoed. -/
def ownVetoed (src : Source) (q : Queued) (cleared : Bool) (s : State) : State :=
  let s1 := resetVetoRun (countVetoed (s.setRli { s.rli with collisions := 0 }))
  let q1 := { q with veto := q.veto + 1 }
  if cleared = false ∧ Config.vetoLimit ≤ q1.veto then dropFrame src q1 s1
  else attemptBack src q1 cleared s1

/-! ## Delivery (R14) -/

/-- R14, 1, R35, R107: what every delivery counts, before the hand-over. -/
def countDelivery (own : Bool) (sender : Nat) (s : State) : State :=
  let s1 := resetVetoRun (countDelivered s)
  let s2 := s1.setLastHeard (resetAge s1.lastHeard sender)
  if own then keepRestart (s2.setRli { s2.rli with collisions := 0 }) else s2

/-- R14, 3, R23: after the hand-over the own slot becomes EMPTY and its source is told of delivery, or of clearing. -/
def ownSlotEmptied (src : Source) (b : Body) (cleared : Bool) (s : State) : State :=
  let s1 := s.setSlot src .empty
  if cleared then toldCleared src b s1 else toldDelivered src b s1

/-- R14: this station's own frame has been delivered. -/
def ownDelivered (src : Source) (q : Queued) (cleared : Bool) (s : State) : State :=
  ownSlotEmptied src q.body cleared (handOver true s.cfg.station q.body (countDelivery true s.cfg.station s))

/-- R14: a received frame has been delivered. -/
def heardDelivered (sender : Nat) (b : Body) (s : State) : State :=
  handOver false sender b (countDelivery false sender s)

/-! ## The receiver (R1, R4, R19) -/

/-- R1, R19: the receiver reads the line: from the end of LOADING, while the line is not stuck. -/
def State.receiving (s : State) : Bool := s.loader.state != .reading && !s.rli.stuck

/-- R8: the receiver frames another station's frame: it reads, and this station does not transmit. -/
def State.framing (s : State) : Bool := s.receiving && s.sendingSource.isNone

/-- R14: the end of a verdict slot that reads recessive. A received frame that this station finds malformed, or on which
it finds lost framing, ends as vetoed (R11, R12, log 10). -/
def frameEndsDelivered (f : LineFrame) (s : State) : State :=
  match f with
  | .own =>
    match s.sendingSource with
    | none => s
    | some src =>
      match s.slot src with
      | .sending q _ cleared => if s.receiving then ownDelivered src q cleared s else s
      | .empty => s
      | .waiting _ => s
  | .heard groups =>
    if s.framing then
      match receive groups with
      | .whole sender b => heardDelivered sender b s
      | .malformed => heardFaulty s
      | .lost => heardFaulty s
      | .incomplete => s
    else s

/-- R15: the end of a verdict slot that reads dominant. -/
def frameEndsVetoed (f : LineFrame) (s : State) : State :=
  match f with
  | .own =>
    match s.sendingSource with
    | none => s
    | some src =>
      match s.slot src with
      | .sending q _ cleared => if s.receiving then ownVetoed src q cleared s else s
      | .empty => s
      | .waiting _ => s
  | .heard groups =>
    if s.framing then
      match receive groups with
      | .whole _ _ => heardVetoed false s
      | .malformed => heardFaulty s
      | .lost => heardFaulty s
      | .incomplete => s
    else s

/-! ## Stuck line (R19) -/

/-- R19, log 22: a slot SENDING when the line sticks has returned to WAITING with its frame and counts. -/
def backAtStuck (s : State) : State :=
  match s.sendingSource with
  | none => s
  | some src =>
    match s.slot src with
    | .sending q _ cleared => attemptBack src q cleared s
    | .empty => s
    | .waiting _ => s

/-- R19: the stuck-line condition is detected. -/
def lineSticks (s : State) : State :=
  let s1 := backAtStuck s
  raise .lineStuck (s1.setRli { s1.rli with stuck := true, collisions := 0 })

end Sys2Proof.Machine
end

