-- ==== Sys2Proof/Machine/Link.lean ====
section
/-! DEFINITION. The Desktop Link Port (chapter 8): the views as bytes (10.9), read passes, reports, EVENTS and its mask,
commands, and what the port answers on the bus (log 7). -/

namespace Sys2Proof.Machine

/-! ## The views (10.9, R161 to R168) -/

/-- R161: view 0, identity. -/
def State.identityView (s : State) : List Byte :=
  bytes16 Config.partCode ++ [Config.layoutRevision, byteOf s.cfg.station] ++ bytes16 s.cfg.rowTag
    ++ [s.loader.state.code, s.link.address, s.link.probeEcho, s.link.probeCount]

/-- R153, R162: view 1, the boot record. -/
def State.bootView (s : State) : List Byte :=
  bytes16 s.seq.night ++ bytes32 s.seq.image ++ [byteOf s.cfg.station] ++ bytes16 s.cfg.rowTag
    ++ [s.bootAction.code, flagByte (s.seq.standing == .aborted), byteOf s.seq.attempt, byteOf s.claim.ownHolds.feed]

/-- R164: view 2 as read. -/
def State.reportView (s : State) : List Byte := s.link.reportStatus.code :: bytes16 (wordOf s.seq.progress)

/-- R165: the four places of the causes. -/
def causeBytes (causes : List Cause) : List Byte := [0, 1, 2, 3].map fun i => Cause.code (causes[i]?)

/-- R165: view 3, the outcome record. -/
def State.outcomeView (s : State) : List Byte :=
  let o := s.seq.outcome
  bytes16 o.night ++ [o.outcome.code, flagByte o.late, SkipReason.code o.skip, byteOf o.used, byteOf o.causes.length]
    ++ causeBytes o.causes ++ [flagByte o.noShutdown] ++ bytes16 (wordOf o.finalProgress) ++ [byteOf s.seq.swallowed]

/-- 10.9: the due flags of view 4. -/
def State.dueByte (s : State) : Byte :=
  (if s.night.startDue then 0x01 else 0) ||| (if s.night.deadlineDue then 0x02 else 0)
    ||| (if s.night.graceDue then 0x04 else 0)

/-- R166: how many roster entries show a presence. -/
def State.presenceCount (s : State) (p : Presence) : Nat := (s.replica.roster.filter fun e => e.presence == p).length

/-- R166: view 4, the row summary. -/
def State.summaryView (s : State) : List Byte :=
  let n := s.replica.night
  [s.member.state.code, byteOf s.member.installAnswerer, byteOf s.member.installAsker] ++ bytes16 n.id
    ++ [n.state.code, n.heldFrom.state.code, flagByte n.aborted, byteOf n.relayer,
        byteOf n.capacities.surge, byteOf n.capacities.load, byteOf n.capacities.feed]
    ++ bytes16 (wordOf s.night.start.seconds) ++ bytes16 (wordOf s.night.deadline.seconds)
    ++ bytes16 (wordOf s.night.grace.seconds) ++ [s.dueByte] ++ poolTableBytes s.replica.pools
    ++ [byteOf (s.presenceCount .present), byteOf (s.presenceCount .silent), byteOf (s.presenceCount .unknown),
        flagByte s.gate.isOpen, byteOf s.claim.ownHolds.surge, byteOf s.claim.ownHolds.load,
        byteOf s.claim.ownHolds.feed]
    ++ bytes16 s.rli.framesDelivered ++ bytes16 s.rli.framesVetoed ++ bytes16 s.rli.arbLosses
    ++ bytes16 s.rli.rxErrors

/-- R167: view 5, the roster entry of the selected station with its last-heard age. -/
def State.rosterView (s : State) : List Byte :=
  entryBytes s.link.station (s.replica.entry s.link.station) ++ bytes16 (wordOf (heardAge s.lastHeard s.link.station))

/-- R168: view 6, the order status. -/
def State.orderView (s : State) : List Byte :=
  bytes16 s.night.accepted ++ bytes16 s.night.rejected ++ [s.night.lastReason.code] ++ bytes16 s.night.lastId

/-- R156: the bytes of a view; VIEW holds 0..6. -/
def State.viewBytes (s : State) (v : Nat) : List Byte :=
  match v with
  | 0 => s.identityView
  | 1 => s.bootView
  | 2 => s.reportView
  | 3 => s.outcomeView
  | 4 => s.summaryView
  | 5 => s.rosterView
  | 6 => s.orderView
  | _ + 7 => []

/-- R156: the length of a view. -/
def viewLength (v : Nat) : Nat :=
  match v with
  | 0 => 10
  | 1 => 13
  | 2 => 3
  | 3 => 15
  | 4 => 52
  | 5 => 13
  | 6 => 7
  | _ + 7 => 0

/-! ## The bus (R155, log 7) -/

/-- R155: the port answers the board bus once LOADING has ended. -/
def State.answering (s : State) : Bool := s.loader.state != .reading

/-- R155: the port answers a transaction at an address. -/
def State.answersAt (s : State) (address : BitVec 7) : Bool :=
  s.answering && s.link.address == address.setWidth 8

/-- R155: a byte written to a register is taken: in a write transaction at the port's address that is not ignored, to the
register the pointer names. -/
def State.takesWrite (s : State) (r : Register) : Bool := s.answering && s.link.writing && s.link.pointer == r

/-- R155: what the port does on the bus: a byte written is acknowledged. -/
def busTaken (s : State) : State := s.setLink { s.link with busByte := none, busAck := true }

/-- R155: a byte not acknowledged, or an address not answered. -/
def busSilent (s : State) : State := s.setLink { s.link with busByte := none, busAck := false }

/-- R155: a byte read is driven by the port. -/
def busDrives (b : Byte) (s : State) : State := s.setLink { s.link with busByte := some b, busAck := true }

/-- R155: a byte written to a register has its effect and is acknowledged; a byte of an ignored transaction, of one at
another address, or one written in LOADING, has none. A register that the pointer does not name is not written (log 7).
-/
def busWrite (r : Register) (effect : State → State) (s : State) : State :=
  if s.takesWrite r then busTaken (effect s) else busSilent s

/-- R155, R172: a command is two bytes; the further bytes of its write transaction are acknowledged and ignored. -/
def busCommand (effect : State → State) (s : State) : State :=
  busWrite .command
    (fun s => if s.link.commandDone then s else effect (s.setLink { s.link with commandDone := true })) s

/-- R155: no write transaction at the port's address is under way any longer, or its rest is ignored. -/
def endWrite (s : State) : State := s.setLink { s.link with writing := false }

/-- R155: the first byte of a write transaction; the start before it ends any other. -/
def pointTo (address : BitVec 7) (byte : Byte) (s : State) : State :=
  if s.answersAt address then
    match Register.ofNumber byte with
    | some r => busTaken (s.setLink { s.link with pointer := r, writing := true, commandDone := false })
    | none => busSilent (endWrite s)
  else busSilent (endWrite s)

/-! ## Selection (R157 to R159) -/

/-- R157: a write of VIEW. DESIGN CHOICE (log 39): a value above 6 keeps the pending report, as R157 says, where R163 has
a write of VIEW with any value empty it. -/
def writeView (value : Byte) (s : State) : State :=
  if value.toNat ≤ 6 then
    s.setLink { s.link with view := value.toNat, index := 0, capture := none, report := [] }
  else s

/-- R158: a write of INDEX. -/
def writeIndex (value : Byte) (s : State) : State :=
  s.setLink { s.link with
    index := if value.toNat < viewLength s.link.view then value.toNat else 0
    report := [] }

/-- R159: a write of STATION. -/
def writeStation (value : Byte) (s : State) : State :=
  if 1 ≤ value.toNat ∧ value.toNat ≤ Config.stations then s.setLink { s.link with station := value.toNat } else s

/-! ## Read passes (R158, R160) -/

/-- R160: whether a read of DATA begins a new pass. -/
def State.beginsPass (s : State) : Bool := s.link.index == 0 || s.link.capture.isNone

/-- R160: who is told that a pass has begun. -/
def passBegun (s : State) : State :=
  if s.link.view = 0 then s.setLink { s.link with probePending := false }
  else if s.link.view = 1 then bootRecordRead s
  else s

/-- R160: a pass begins: the view is captured whole, and then those concerned are told. -/
def beginPass (s : State) : State :=
  passBegun (s.setLink { s.link with capture := some (s.viewBytes s.link.view) })

/-- R158: INDEX after the byte at INDEX has been returned; in view 5 the return to 0 also advances STATION. -/
def advanceIndex (s : State) : State :=
  if s.link.index + 1 < viewLength s.link.view then s.setLink { s.link with index := s.link.index + 1 }
  else s.setLink { s.link with
    index := 0
    station := if s.link.view = 5 then (if s.link.station = Config.stations then 1 else s.link.station + 1)
      else s.link.station }

/-- R160, R163: a read of DATA; in view 2 it discards the pending report. -/
def readData (s : State) : State :=
  let s1 := if s.beginsPass then beginPass s else s
  let s2 := busDrives (byteAt (s1.link.capture.getD []) s1.link.index) s1
  advanceIndex (if s2.link.view = 2 then s2.setLink { s2.link with report := [] } else s2)

/-! ## Progress reports (R163) -/

/-- R163: the third byte: the report is handed to the sequencer and its status returned. -/
def handReport (bytes : List Byte) (s : State) : State :=
  let progress := (be16 (byteAt bytes 0) (byteAt bytes 1)).toNat
  let flags := byteAt bytes 2
  let status := judgeReport s progress
  let s1 := takeReport progress (flags.getLsbD 0) (flags.getLsbD 1) (flags.getLsbD 2)
    (s.setLink { s.link with report := [], index := 0 })
  s1.setLink { s1.link with reportStatus := status }

/-- R163: a write of DATA. -/
def writeData (value : Byte) (s : State) : State :=
  if s.link.view = 2 ∧ s.link.index = s.link.report.length then
    let bytes := s.link.report ++ [value]
    if bytes.length < 3 then s.setLink { s.link with report := bytes, index := s.link.index + 1 }
    else handReport bytes s
  else s

/-! ## EVENTS and EVENT_MASK (R170, R171, 10.8) -/

/-- 10.8: the byte of a two-byte register at a position of a transaction; further bytes read as 0xFF (R155). -/
def byteOfWord (w : Word16) (position : Nat) : Byte :=
  match position with
  | 0 => hi8 w
  | 1 => lo8 w
  | _ + 2 => 0xFF

/-- A word with a byte at a position and zeros elsewhere. -/
def wordOfByte (b : Byte) (position : Nat) : Word16 :=
  match position with
  | 0 => b ++ (0 : Byte)
  | 1 => (0 : Byte) ++ b
  | _ + 2 => 0

/-- R170: the copy of the set that a read takes at its first byte; a later byte without one takes it then (log 23). -/
def copyEvents (position : Nat) (s : State) : State :=
  if position = 0 ∨ s.link.eventsCopy = none then
    s.setLink { s.link with eventsCopy := some s.link.events, raisedSince := 0 }
  else s

/-- R170: in READ_CLEARS the events shown by a byte are cleared, unless raised again since the copy. -/
def clearShown (shown : Word16) (s : State) : State :=
  s.setLink { s.link with events := s.link.events &&& ~~~(shown &&& ~~~s.link.raisedSince) }

/-- R170: one byte of a read of EVENTS. -/
def readEvents (position : Nat) (s : State) : State :=
  match s.link.clearMode with
  | .writeClears => busDrives (byteOfWord s.link.events position) s
  | .readClears =>
    if position < 2 then
      let s1 := copyEvents position s
      let b := byteOfWord (s1.link.eventsCopy.getD 0) position
      clearShown (wordOfByte b position) (busDrives b s1)
    else busDrives 0xFF s

/-- R170: one byte of a write of EVENTS. -/
def writeEvents (position : Nat) (value : Byte) (s : State) : State :=
  match s.link.clearMode with
  | .readClears => s
  | .writeClears => s.setLink { s.link with events := s.link.events &&& ~~~(wordOfByte value position) }

/-- R171: one byte of a write of EVENT_MASK; the second byte holds the five night enables. -/
def writeMask (position : Nat) (value : Byte) (s : State) : State :=
  if position = 1 then s.setLink { s.link with mask := value &&& 0x1F } else s

/-! ## Commands (R70, R172) -/

/-- R172: the last command and its status. -/
def noteCommand (code : Byte) (status : CommandStatus) (s : State) : State :=
  s.setLink { s.link with lastCode := code, lastStatus := status }

/-- R70, R172: REJOIN. -/
def takeRejoin (s : State) : State :=
  if s.member.state = .unconfigured then noteCommand 0x01 .refused s
  else noteCommand 0x01 .done (rejoinStation s)

/-- R172: PROBE. -/
def takeProbe (argument : Byte) (s : State) : State :=
  noteCommand 0x02 .done (s.setLink { s.link with
    probeEcho := argument, probeCount := s.link.probeCount + 1, probePending := true })

/-- R172: a command by its code. -/
def takeCommand (code argument : Byte) (s : State) : State :=
  if code = 0x01 then takeRejoin s
  else if code = 0x02 then takeProbe argument s
  else noteCommand code .unknown s

/-! ## Reads of a register (R155, R156, 10.8) -/

/-- 10.8: EVENT_MASK as read: the first byte is 0x3F. -/
def State.maskWord (s : State) : Word16 := (0x3F : Byte) ++ s.link.mask

/-- 10.8: COMMAND as read. -/
def State.commandWord (s : State) : Word16 := s.link.lastCode ++ s.link.lastStatus.code

/-- R155, R156: one byte read from a register, at a position of the read transaction counted from 0. -/
def readRegister (r : Register) (position : Nat) (s : State) : State :=
  match r with
  | .data => readData s
  | .events => readEvents position s
  | .view => busDrives (byteOf s.link.view) s
  | .index => busDrives (byteOf s.link.index) s
  | .station => busDrives (byteOf s.link.station) s
  | .eventMask => busDrives (byteOfWord s.maskWord position) s
  | .command => busDrives (byteOfWord s.commandWord position) s

/-- R155: one byte of a read transaction comes from the register the pointer names (log 36); the start that began it has
ended any write transaction. -/
def busRead (address : BitVec 7) (position : Nat) (s : State) : State :=
  let s1 := endWrite s
  if s1.answersAt address then readRegister s1.link.pointer position s1 else busSilent s1

end Sys2Proof.Machine
end

