-- ==== Sys2Proof/Machine/DeskLink.lean ====
section
/-! DEFINITION. The commands of the desktop link (chapter 8). A byte written or read belongs to the transaction
under way and to the register the pointer names (R155); what the port answers stands in busByte and busAck (log 7). -/

namespace Sys2Proof.Machine

/-- POINTER_WRITE (R155). -/
def execPointerWrite (address : BitVec 7) (byte : Byte) (s : State) : Host.Outcome State Fault Refusal :=
  .next (pointTo address byte s)

/-- VIEW_WRITE (R157). -/
def execViewWrite (value : Byte) (s : State) : Host.Outcome State Fault Refusal :=
  .next (busWrite .view (writeView value) s)

/-- INDEX_WRITE (R158). -/
def execIndexWrite (value : Byte) (s : State) : Host.Outcome State Fault Refusal :=
  .next (busWrite .index (writeIndex value) s)

/-- STATION_WRITE (R159). -/
def execStationWrite (value : Byte) (s : State) : Host.Outcome State Fault Refusal :=
  .next (busWrite .station (writeStation value) s)

/-- DATA_READ (R155, R160): with the pointer at DATA, where every byte is read alike. -/
def execDataRead (address : BitVec 7) (s : State) : Host.Outcome State Fault Refusal :=
  .next (busRead address 0 s)

/-- DATA_WRITE (R163). -/
def execDataWrite (value : Byte) (s : State) : Host.Outcome State Fault Refusal :=
  .next (busWrite .data (writeData value) s)

/-- EVENTS_READ (R155, R170): with the pointer at EVENTS. -/
def execEventsRead (address : BitVec 7) (position : Nat) (s : State) : Host.Outcome State Fault Refusal :=
  .next (busRead address position s)

/-- EVENTS_WRITE (R170). -/
def execEventsWrite (position : Nat) (value : Byte) (s : State) : Host.Outcome State Fault Refusal :=
  .next (busWrite .events (writeEvents position value) s)

/-- EVENT_MASK_WRITE (R171). -/
def execEventMaskWrite (position : Nat) (value : Byte) (s : State) : Host.Outcome State Fault Refusal :=
  .next (busWrite .eventMask (writeMask position value) s)

/-- REJOIN (R70, R172): the argument is ignored. -/
def execRejoin (_argument : Byte) (s : State) : Host.Outcome State Fault Refusal :=
  .next (busCommand takeRejoin s)

/-- PROBE (R172). -/
def execProbe (argument : Byte) (s : State) : Host.Outcome State Fault Refusal :=
  .next (busCommand (takeProbe argument) s)

/-- UNKNOWN_COMMAND (R172): a code that names a command is that command (log 24). -/
def execUnknownCommand (code argument : Byte) (s : State) : Host.Outcome State Fault Refusal :=
  .next (busCommand (takeCommand code argument) s)

end Sys2Proof.Machine
end

