-- ==== Sys2Proof/Machine/Expiries.lean ====
section
/-! DEFINITION. The commands of the timers of membership, the Night Unit, the Claim Engine and the Gate and Mark Unit.
An expiry is a command: it acts whenever its timer runs (log 3). -/

namespace Sys2Proof.Machine

/-! ## Membership -/

/-- R50, R51: the ask wait expires: the station founds the row, or the ask is unsuccessful. -/
def askWaitOver (s : State) : State :=
  let s1 := s.setMember { s.member with askWait := .stopped }
  if s.member.onlyAsks then foundRow s1 else askUnsuccessful s1

/-- ASK_WAIT_EXPIRY (R50). -/
def execAskWaitExpiry (s : State) : Host.Outcome State Fault Refusal :=
  .next (if s.member.askWait.isRunning = true ∧ s.member.state = .joining then askWaitOver s else s)

/-- SERIES_GAP_EXPIRY (R60). -/
def execSeriesGapExpiry (s : State) : Host.Outcome State Fault Refusal :=
  .next (if s.member.seriesGap.isRunning = true ∧ s.member.state = .collecting then seriesGapOver s else s)

/-- R55, R57: the watch's gap timer expires: a station that is answering stops; the series is abandoned. -/
def watchGapOver (s : State) : State := endWatch (if s.member.position = 0 then s else stopSeries s)

/-- SERIES_WATCH_GAP_EXPIRY (R55, R57). -/
def execSeriesWatchGapExpiry (s : State) : Host.Outcome State Fault Refusal :=
  .next (if s.member.watch.isSome then watchGapOver s else s)

/-- SERIES_PAUSE_END (R57): the next run of the series is placed. -/
def execSeriesPauseEnd (s : State) : Host.Outcome State Fault Refusal :=
  .next (if s.member.pause.isRunning then placeRun (s.member.position + 1) s else s)

/-- ISOLATED_COOLDOWN_EXPIRY (R68, R69). -/
def execIsolatedCooldownExpiry (s : State) : Host.Outcome State Fault Refusal :=
  .next (if s.member.cooldown.isRunning = true ∧ s.member.state = .isolated then rejoinStation s else s)

/-! ## Night Unit -/

/-- NIGHT_COUNT_EXPIRY (R84, R85). -/
def execNightCountExpiry (count : NightCount) (s : State) : Host.Outcome State Fault Refusal :=
  .next (if (s.night.count count).isRunning then workStep (expireCount count s) else s)

/-- RUN0_SECOND_TICK (R54): a WAITING run 0 is placed anew. -/
def execRun0SecondTick (s : State) : Host.Outcome State Fault Refusal := .next (refreshRun0 s)

/-! ## Claim Engine -/

/-- R97: the claim age timer expires: a WAITING CLAIM is withdrawn and the pool re-read; a SENDING one waits for the end
of its attempt. -/
def claimAgeOver (s : State) : State :=
  match s.slot .claim with
  | .waiting _ => claimEmptied (stopClaimAge (withdraw .claim s))
  | .sending _ _ _ => s.setClaim { s.claim with claimAge := .stopped, ageExpired := true }
  | .empty => stopClaimAge s

/-- CLAIM_AGE_EXPIRY (R97). -/
def execClaimAgeExpiry (s : State) : Host.Outcome State Fault Refusal :=
  .next (if s.claim.claimAge.isRunning then claimAgeOver s else s)

/-- KEEP_TIMER_EXPIRY (R107): a keep MARK, and the timer starts again. -/
def execKeepTimerExpiry (s : State) : Host.Outcome State Fault Refusal :=
  .next (if s.claim.keep.isRunning then
      keepMark (s.setClaim { s.claim with keep := .running Config.keep })
    else s)

/-- LAST_HEARD_TICK (R35, R109): from the end of LOADING an age passes a whole second, and the watch re-judges. -/
def execLastHeardTick (s : State) : Host.Outcome State Fault Refusal :=
  .next (if s.loader.state = .reading then s else judgeWatch (s.setLastHeard (passSecond s.lastHeard)))

/-! ## Gate and Mark Unit -/

/-- GATE_PATIENCE_EXPIRY (R120): patience has elapsed for its night, and the gate is evaluated. -/
def execGatePatienceExpiry (s : State) : Host.Outcome State Fault Refusal :=
  .next (match s.gate.patience with
    | .running _ night => evaluateGate (s.setGate { s.gate with patience := .elapsed night })
    | .stopped => s
    | .elapsed _ => s)

end Sys2Proof.Machine
end

