-- ==== Sys2Proof/Machine/Loading.lean ====
section
/-! DEFINITION. The commands of cold start and of the Configuration Loader (chapter 9): COLD_START, CONFIG_READ_DONE,
READ_LIMIT_EXPIRY. Each meaning gives a next state; an event that cannot occur in the state it meets changes nothing
(log 1). -/

namespace Sys2Proof.Machine

/-- R175, R176: a VALID verdict: every field is handed to its block at one moment, the order receiver awaits
its first silence (R71), and the station enters JOINING. -/
def configValid (block : List Byte) (s : State) : State :=
  let s1 := (s.setLoader { state := .valid, readLimit := .stopped, image := [] }).setCfg (readSettings block)
  let s2 := s1.setNight { s1.night with awaitsSilence := true }
  joinEntry (s2.setLink { s2.link with
    pointer := .data, address := byteAt block 4, clearMode := readClearMode block })

/-- R173, R177: a FAULT verdict: CONFIG_FAULT is raised, the link answers at the fallback address with READ_CLEARS, and
the station becomes UNCONFIGURED. -/
def configFault (s : State) : State :=
  let s1 := s.setLoader { state := .fault, readLimit := .stopped, image := [] }
  let s2 := s1.setLink { s1.link with
    pointer := .data, address := Config.fallbackAddress, clearMode := .readClears }
  raise .configFault (s2.setMember { s2.member with state := .unconfigured })

/-- COLD_START (R173): every piece of state takes its initial value over the levels of the power inputs (R129, R132); the
queue is the world's, and the counter of free values runs on (log 8). -/
def execColdStart (powerGood supplyReq panelButton : Bool) (s : State) : Host.Outcome State Fault Refusal :=
  .next ((State.cold ⟨supplyReq, powerGood, panelButton⟩ s.pending).setFreeCount s.freeCount)

/-- CONFIG_READ_DONE (R175): the block has been returned in full within the read limit, and is judged. -/
def execConfigReadDone (block : List Byte) (s : State) : Host.Outcome State Fault Refusal :=
  .next (if s.loader.state = .reading ∧ block.length = Config.blockLength then
      if blockValid block then configValid block s else configFault s
    else s)

/-- READ_LIMIT_EXPIRY (R173): the read limit expires first, and the verdict is FAULT. -/
def execReadLimitExpiry (s : State) : Host.Outcome State Fault Refusal :=
  .next (if s.loader.state = .reading ∧ s.loader.readLimit.isRunning = true then configFault s else s)

end Sys2Proof.Machine
end

