-- ==== Sys2Proof/Machine/Power.lean ====
section
/-! DEFINITION. The commands of the desktop power lines and of the sequencer's own timers (chapter 7). -/

namespace Sys2Proof.Machine

/-! ## Power lines -/

/-- R139, R137: what a rise of POWER_GOOD does by state. -/
def powerGoodRises (s : State) : State :=
  match s.seq.state with
  | .awaitGood => s.setSeq { s.seq with state := .settle, good := .stopped, settle := .running Config.settle }
  | .gated | .claiming => localEntry s
  | .standby | .settle | .booting | .imaging | .finishing | .cooldown | .done | .failed | .skipped | .localUse => s

/-- R146, R145: what a fall of POWER_GOOD does by state. -/
def powerGoodFalls (s : State) : State :=
  match s.seq.state with
  | .settle | .booting | .imaging => failAttempt .powerLost s
  | .finishing => finishDone s
  | .standby | .gated | .claiming | .awaitGood | .cooldown | .done | .failed | .skipped | .localUse => s

/-- POWER_GOOD_RISE (R139, R137). -/
def execPowerGoodRise (s : State) : Host.Outcome State Fault Refusal :=
  .next (if s.pins.powerGood then s else powerGoodRises (s.setPins { s.pins with powerGood := true }))

/-- POWER_GOOD_FALL (R146, R145). -/
def execPowerGoodFall (s : State) : Host.Outcome State Fault Refusal :=
  .next (if s.pins.powerGood then powerGoodFalls (s.setPins { s.pins with powerGood := false }) else s)

/-- R130: the permit is given. -/
def givePermit (s : State) : State := s.setSeq { s.seq with permit := true }

/-- SUPPLY_REQ_RELEASE (R130). -/
def execSupplyReqRelease (s : State) : Host.Outcome State Fault Refusal :=
  let s1 := s.setPins { s.pins with supplyReq := false }
  .next (if s.seq.state = .cooldown then s1 else givePermit s1)

/-! ## The front-panel button (R151, R152) -/

/-- R151: a press passes through, and the permit is given. -/
def passPress (s : State) : State := s.setSeq { s.seq with press := .passing, permit := true }

/-- R152: a press is held, and the press timer starts. -/
def holdPress (s : State) : State := s.setSeq { s.seq with press := .held, pressTimer := .running Config.press }

/-- R151, R152: what the beginning of a press does by state. -/
def pressBegins (s : State) : State :=
  match s.seq.state with
  | .standby | .done | .failed | .skipped | .localUse => passPress s
  | .gated | .claiming => localEntry (passPress s)
  | .awaitGood | .settle | .booting | .imaging | .finishing | .cooldown => holdPress s

/-- R152: the end of a press; one that was held is swallowed. -/
def pressEnds (s : State) : State :=
  s.setSeq { s.seq with
    press := .none
    pressTimer := .stopped
    swallowed := if s.seq.press = .held then min (s.seq.swallowed + 1) Config.maxSwallowed else s.seq.swallowed }

/-- R152: the press timer expires with the press held: a long press. In a terminal state, which the sequencer may have
reached meanwhile, the press only passes through (log 14). -/
def pressHeldOut (s : State) : State :=
  let s1 := (passPress s).setSeq { (passPress s).seq with pressTimer := .stopped }
  match s1.seq.state with
  | .gated | .claiming | .awaitGood | .settle | .booting | .imaging | .finishing | .cooldown => longPress s1
  | .standby | .done | .failed | .skipped | .localUse => s1

/-- PRESS_BEGIN (R151, R152). -/
def execPressBegin (s : State) : Host.Outcome State Fault Refusal :=
  .next (if s.pins.panelButton then s else pressBegins (s.setPins { s.pins with panelButton := true }))

/-- PRESS_END (R151, R152). -/
def execPressEnd (s : State) : Host.Outcome State Fault Refusal :=
  .next (if s.pins.panelButton then pressEnds (s.setPins { s.pins with panelButton := false }) else s)

/-- PRESS_TIMER_EXPIRY (R152). -/
def execPressTimerExpiry (s : State) : Host.Outcome State Fault Refusal :=
  .next (if s.seq.pressTimer.isRunning then pressHeldOut s else s)

/-! ## The sequencer's timers -/

/-- WAKE_PULSE_END (R129, R139): the pulse ends; DESK_BUTTON follows the press alone. -/
def execWakePulseEnd (s : State) : Host.Outcome State Fault Refusal :=
  .next (s.setSeq { s.seq with wake := .stopped })

/-- GOOD_LIMIT_EXPIRY (R139). -/
def execGoodLimitExpiry (s : State) : Host.Outcome State Fault Refusal :=
  .next (if s.seq.good.isRunning = true ∧ s.seq.state = .awaitGood then failAttempt .noPowerGood s else s)

/-- SETTLE_EXPIRY (R139, R140). -/
def execSettleExpiry (s : State) : Host.Outcome State Fault Refusal :=
  .next (if s.seq.settle.isRunning = true ∧ s.seq.state = .settle then settleEnds s else s)

/-- CONTACT_TIMER_EXPIRY (R141): the flag still clear (log 15). -/
def execContactTimerExpiry (s : State) : Host.Outcome State Fault Refusal :=
  .next (if s.seq.contactTimer.isRunning = true ∧ s.seq.contact = false
        ∧ (s.seq.state = .booting ∨ s.seq.state = .imaging) then
      failAttempt .noFirmware s
    else s)

/-- PROGRESS_TIMER_EXPIRY (R141, R144). -/
def execProgressTimerExpiry (s : State) : Host.Outcome State Fault Refusal :=
  .next (if s.seq.progressTimer.isRunning = true ∧ (s.seq.state = .booting ∨ s.seq.state = .imaging) then
      failAttempt .noProgress s
    else s)

/-- R145: the shutdown timer runs out: the permit is withdrawn, NO_SHUTDOWN recorded, and FINISHING ends in DONE. -/
def shutdownRunsOut (s : State) : State :=
  finishDone (s.setSeq { s.seq with
    permit := false, outcome := { s.seq.outcome with noShutdown := true } })

/-- SHUTDOWN_TIMER_EXPIRY (R145). -/
def execShutdownTimerExpiry (s : State) : Host.Outcome State Fault Refusal :=
  .next (if s.seq.shutdown.isRunning = true ∧ s.seq.state = .finishing then shutdownRunsOut s else s)

/-- R130, R147: cooldown ends; SUPPLY_REQ found deasserted gives the permit. -/
def cooldownOver (supplyReq : Bool) (s : State) : State :=
  cooldownEnds ((s.setPins { s.pins with supplyReq := supplyReq }).setSeq { s.seq with
    cooldown := .stopped, permit := s.seq.permit || !supplyReq })

/-- COOLDOWN_EXPIRY (R147, R130). -/
def execCooldownExpiry (supplyReq : Bool) (s : State) : Host.Outcome State Fault Refusal :=
  .next (if s.seq.cooldown.isRunning = true ∧ s.seq.state = .cooldown then cooldownOver supplyReq s else s)

end Sys2Proof.Machine
end

