-- ==== Sys2Proof/Machine/RowLine.lean ====
section
/-! DEFINITION. The commands of the row line (chapter 1) and of the order input line (chapter 4). -/

namespace Sys2Proof.Machine

/-- ATTEMPT_START (R4, R8): after the required idle the frame with the lowest field goes out; its slot is SENDING. -/
def execAttemptStart (s : State) : Host.Outcome State Fault Refusal := .next (startAttempt s)

/-- LOST_ARBITRATION (R7). -/
def execLostArbitration (s : State) : Host.Outcome State Fault Refusal := .next (loseArbitration s)

/-- COLLISION (R9, R10). -/
def execCollision (s : State) : Host.Outcome State Fault Refusal := .next (collide s)

/-- LOST_FRAMING (R12): the frame ends at this station as vetoed. -/
def execLostFraming (s : State) : Host.Outcome State Fault Refusal :=
  .next (if s.framing then heardFaulty s else s)

/-- FRAME_DELIVERED (R14). -/
def execFrameDelivered (frame : LineFrame) (s : State) : Host.Outcome State Fault Refusal :=
  .next (frameEndsDelivered frame s)

/-- FRAME_VETOED (R15). -/
def execFrameVetoed (frame : LineFrame) (s : State) : Host.Outcome State Fault Refusal :=
  .next (frameEndsVetoed frame s)

/-- STUCK_LINE (R19): once for each stuck condition. -/
def execStuckLine (s : State) : Host.Outcome State Fault Refusal :=
  .next (if s.receiving then lineSticks s else s)

/-- STUCK_LINE_CLEAR (R19). -/
def execStuckLineClear (s : State) : Host.Outcome State Fault Refusal :=
  .next (s.setRli { s.rli with stuck := false })

/-- ORDER_MESSAGE (R71, R73): bytes have ended in a silence of more than 5 ms. A message is checked; the receiver is
idle in LOADING and UNCONFIGURED, and a message has at least one byte. -/
def execOrderMessage (line : LineBytes) (s : State) : Host.Outcome State Fault Refusal :=
  .next (if s.orderReceiving = true ∧ line.bytes ≠ [] then orderSilence line s else s)

end Sys2Proof.Machine
end

