-- ==== Sys2Proof/Machine/Dispatch.lean ====
section
/-! DEFINITION. One arm per command: the meaning that exec calls for it. -/

namespace Sys2Proof.Machine

def exec (i : Instr) (s : State) : Host.Outcome State Fault Refusal :=
  match i with
  | .coldStart powerGood supplyReq panelButton => Sys2Proof.Machine.execColdStart powerGood supplyReq panelButton s
  | .configReadDone block => Sys2Proof.Machine.execConfigReadDone block s
  | .readLimitExpiry => Sys2Proof.Machine.execReadLimitExpiry s
  | .attemptStart => Sys2Proof.Machine.execAttemptStart s
  | .lostArbitration => Sys2Proof.Machine.execLostArbitration s
  | .collision => Sys2Proof.Machine.execCollision s
  | .lostFraming => Sys2Proof.Machine.execLostFraming s
  | .frameDelivered frame => Sys2Proof.Machine.execFrameDelivered frame s
  | .frameVetoed frame => Sys2Proof.Machine.execFrameVetoed frame s
  | .stuckLine => Sys2Proof.Machine.execStuckLine s
  | .stuckLineClear => Sys2Proof.Machine.execStuckLineClear s
  | .orderMessage line => Sys2Proof.Machine.execOrderMessage line s
  | .pointerWrite address byte => Sys2Proof.Machine.execPointerWrite address byte s
  | .viewWrite value => Sys2Proof.Machine.execViewWrite value s
  | .indexWrite value => Sys2Proof.Machine.execIndexWrite value s
  | .stationWrite value => Sys2Proof.Machine.execStationWrite value s
  | .dataRead address => Sys2Proof.Machine.execDataRead address s
  | .dataWrite value => Sys2Proof.Machine.execDataWrite value s
  | .eventsRead address position => Sys2Proof.Machine.execEventsRead address position s
  | .eventsWrite position value => Sys2Proof.Machine.execEventsWrite position value s
  | .eventMaskWrite position value => Sys2Proof.Machine.execEventMaskWrite position value s
  | .rejoin argument => Sys2Proof.Machine.execRejoin argument s
  | .probe argument => Sys2Proof.Machine.execProbe argument s
  | .unknownCommand code argument => Sys2Proof.Machine.execUnknownCommand code argument s
  | .powerGoodRise => Sys2Proof.Machine.execPowerGoodRise s
  | .powerGoodFall => Sys2Proof.Machine.execPowerGoodFall s
  | .supplyReqRelease => Sys2Proof.Machine.execSupplyReqRelease s
  | .pressBegin => Sys2Proof.Machine.execPressBegin s
  | .pressEnd => Sys2Proof.Machine.execPressEnd s
  | .pressTimerExpiry => Sys2Proof.Machine.execPressTimerExpiry s
  | .askWaitExpiry => Sys2Proof.Machine.execAskWaitExpiry s
  | .seriesGapExpiry => Sys2Proof.Machine.execSeriesGapExpiry s
  | .seriesWatchGapExpiry => Sys2Proof.Machine.execSeriesWatchGapExpiry s
  | .seriesPauseEnd => Sys2Proof.Machine.execSeriesPauseEnd s
  | .isolatedCooldownExpiry => Sys2Proof.Machine.execIsolatedCooldownExpiry s
  | .nightCountExpiry count => Sys2Proof.Machine.execNightCountExpiry count s
  | .run0SecondTick => Sys2Proof.Machine.execRun0SecondTick s
  | .claimAgeExpiry => Sys2Proof.Machine.execClaimAgeExpiry s
  | .keepTimerExpiry => Sys2Proof.Machine.execKeepTimerExpiry s
  | .lastHeardTick => Sys2Proof.Machine.execLastHeardTick s
  | .gatePatienceExpiry => Sys2Proof.Machine.execGatePatienceExpiry s
  | .wakePulseEnd => Sys2Proof.Machine.execWakePulseEnd s
  | .goodLimitExpiry => Sys2Proof.Machine.execGoodLimitExpiry s
  | .settleExpiry => Sys2Proof.Machine.execSettleExpiry s
  | .contactTimerExpiry => Sys2Proof.Machine.execContactTimerExpiry s
  | .progressTimerExpiry => Sys2Proof.Machine.execProgressTimerExpiry s
  | .shutdownTimerExpiry => Sys2Proof.Machine.execShutdownTimerExpiry s
  | .cooldownExpiry supplyReq => Sys2Proof.Machine.execCooldownExpiry supplyReq s

end Sys2Proof.Machine
end

