-- ==== Sys2Proof/Safety.lean ====
section
/-! DEFINITION. What is said about the machine as a whole: what the operations of the blocks leave alone, and the
invariants of the queue, the tables, the link and the pools. -/

namespace Sys2Proof.Machine

/-- What no operation of the Night Unit, the Claim Engine, the Gate and Mark Unit, the sequencer or the link port writes:
the replica, the last-heard table, the power inputs, the loader, the settings, the counter of free values and the queue
of waiting commands. -/
structure Kept (s t : State) : Prop where
  replica : t.replica = s.replica
  lastHeard : t.lastHeard = s.lastHeard
  pins : t.pins = s.pins
  loader : t.loader = s.loader
  cfg : t.cfg = s.cfg
  freeCount : t.freeCount = s.freeCount
  pending : t.pending = s.pending

/-! ## The outbound queue and the line counts (R7, R10, R17, R18, R20) -/

/-- R20, R17: the counts of a frame are in range; one that reaches 16 vetoes is dropped at once. -/
def Queued.InRange (q : Queued) : Prop := q.loss ≤ Config.maxLoss ∧ q.veto < Config.vetoLimit

/-- The counts of the frame a slot holds are in range. -/
def Slot.InRange : Slot → Prop
  | .empty => True
  | .waiting q => q.InRange
  | .sending q _ _ => q.InRange

/-- How many slots are SENDING. -/
def Queue.sendingCount (q : Queue) : Nat := (Source.all.filter fun src => (q.get src).isSending).length

/-- R8, R20: the queue is in range: one transmitter, and every count within its limit; the line's counts are too. -/
structure LineRanges (s : State) : Prop where
  slots : ∀ src, (s.slot src).InRange
  oneSending : s.rli.queue.sendingCount ≤ 1
  vetoRun : s.rli.vetoRun < Config.vetoRunLimit
  collisions : s.rli.collisions ≤ Config.collisionLimit

/-! ## Tables and buffers (R32, R35, R59, R61) -/

/-- The forty entries and ages, the ages' limit, the buffer's limit, and the runs stored of an adopted series. -/
structure TableRanges (s : State) : Prop where
  roster : s.replica.roster.length = Config.stations
  ages : s.lastHeard.length = Config.stations
  ageLimit : ∀ a ∈ s.lastHeard, a ≤ Config.maxHeardAge * 1000
  buffer : s.member.buffer.length ≤ Config.bufferLimit
  runs : ∀ a, s.member.adopted = some a → a.runs.length + 1 = a.next

/-! ## The desktop link and the sequencer (R142, R156, R158, R159, R163) -/

/-- The selectors of the desktop link, the pending report and the accepted progress are in range; EVENTS and EVENT_MASK
hold named places only (10.8). -/
structure LinkRanges (s : State) : Prop where
  view : s.link.view ≤ 6
  index : s.link.index < viewLength s.link.view
  station : 1 ≤ s.link.station ∧ s.link.station ≤ Config.stations
  report : s.link.report.length ≤ 2
  events : s.link.events &&& 0x3F1F = s.link.events
  mask : s.link.mask &&& 0x1F = s.link.mask
  progress : s.seq.progress ≤ Config.maxProgress
  swallowed : s.seq.swallowed ≤ Config.maxSwallowed

/-! ## Attempts (R121, R138, R146) -/

/-- The states in which an attempt can fail. -/
def SeqState.canFail : SeqState → Bool
  | .awaitGood | .settle | .booting | .imaging => true
  | .standby | .gated | .claiming | .finishing | .cooldown | .done | .failed | .skipped | .localUse => false

/-- R138, R146: attempts used stay within the retry limit plus one, one cause per failed attempt; a station that waits
to claim has an attempt left; before the settings are handed out nothing has begun. -/
structure AttemptLaw (s : State) : Prop where
  retry : s.cfg.retryLimit ≤ 3
  used : s.seq.attempt = s.seq.outcome.used
  limit : s.seq.outcome.used ≤ s.cfg.retryLimit + 1
  waiting : s.seq.state = .gated ∨ s.seq.state = .claiming → s.seq.outcome.used ≤ s.cfg.retryLimit
  causes : s.seq.outcome.causes.length ≤ s.seq.outcome.used
  failing : s.seq.state.canFail = true → s.seq.outcome.causes.length < s.seq.outcome.used
  untouched : s.seq.state = .standby → s.seq.outcome.used = 0 ∧ s.seq.progress = 0
  loading : s.loader.state = .reading → s.member.state = .loading ∧ s.seq.outcome.used = 0
    ∧ (s.seq.state = .standby ∨ s.seq.state = .localUse)

/-- R121, R124: the pending newest is a kind of the emitted-marks set. -/
def NewestInSet (s : State) : Prop := ∀ k, s.gate.newest = some k → s.gate.emitted.has k = true

/-! ## The pools (R30, R29, R102) -/

/-- R30: the holds of a pool over a roster. -/
def holdSum (roster : List Entry) (p : Pool) : Nat := (roster.map fun e => e.holds.get p).sum

/-- R30: each pool's in-use count equals the sum of that pool's holds over the forty entries. -/
def Replica.inUseLaw (r : Replica) : Prop :=
  r.roster.length = Config.stations ∧ ∀ p, (r.pools.get p).inUse = holdSum r.roster p

/-- R29, R102: each pool has no reservation, or one of 1..15 units whose reserving station holds no units of it. -/
def Replica.reservationLaw (r : Replica) : Prop :=
  ∀ p, ((r.pools.get p).reserver = 0 ∧ (r.pools.get p).reserved = 0)
    ∨ (1 ≤ (r.pools.get p).reserver ∧ (r.pools.get p).reserver ≤ Config.stations
        ∧ 1 ≤ (r.pools.get p).reserved ∧ (r.pools.get p).reserved ≤ 15
        ∧ (r.entry (r.pools.get p).reserver).holds.get p = 0)

/-- R30, R102: an IN_SYNC station has a number 1..40 and a replica that obeys both laws of the pools. -/
def PoolLaws (s : State) : Prop :=
  s.InSync → (1 ≤ s.cfg.station ∧ s.cfg.station ≤ Config.stations)
    ∧ s.replica.inUseLaw ∧ s.replica.reservationLaw

/-! ## What statements are made of -/

/-- The commands that may write the replica (R25): cold start, the end of a frame, and the ways to rejoin. -/
def mayWriteReplica : Instr → Bool
  | .coldStart .. | .frameDelivered _ | .frameVetoed _ | .lostFraming | .rejoin _ | .isolatedCooldownExpiry => true
  | .unknownCommand code _ => code == 0x01
  | _ => false

/-- R35: the commands that may write the last-heard table. -/
def mayWriteAges : Instr → Bool
  | .coldStart .. | .frameDelivered _ | .lastHeardTick => true
  | _ => false

/-- R173, R176: the commands that may write the settings and the loader. -/
def mayWriteSettings : Instr → Bool
  | .coldStart .. | .configReadDone _ | .readLimitExpiry => true
  | _ => false

/-- R129, R130: the commands that may write the levels of the power inputs. -/
def mayWritePins : Instr → Bool
  | .coldStart .. | .powerGoodRise | .powerGoodFall | .supplyReqRelease | .pressBegin | .pressEnd
  | .cooldownExpiry _ => true
  | _ => false

/-- R11, 10.2, 10.3: a body that a frame can carry: a known kind with its length, or another kind of at most 24 bytes. -/
def Body.Sendable : Body → Prop
  | .run _ index payload => runLength index.toNat = some (payload.length + 2)
  | .unknown k bytes => kindClass k = none ∧ bytes.length ≤ Config.maxBody
  | _ => True

/-- R174, R175: the nine tests of a configuration block, field by field. -/
structure BlockAccepted (b : List Byte) : Prop where
  marker : byteAt b 0 = 0xA7
  check : crc (b.take 18) = be16 (byteAt b 18) (byteAt b 19)
  station : 1 ≤ (byteAt b 1).toNat ∧ (byteAt b 1).toNat ≤ 40
  address : 0x08 ≤ (byteAt b 4).toNat ∧ (byteAt b 4).toNat ≤ 0x77
  surge : 1 ≤ (byteAt b 5).toNat ∧ (byteAt b 5).toNat ≤ 15
  load : 1 ≤ (byteAt b 6).toNat ∧ (byteAt b 6).toNat ≤ 15
  feed : 1 ≤ (byteAt b 7).toNat ∧ (byteAt b 7).toNat ≤ 4
  retry : (byteAt b 8).toNat ≤ 3
  mode : (byteAt b 9).toNat ≤ 2
  awaited : (byteAt b 10).toNat ≤ 4
  leads : ∀ i, 11 ≤ i → i ≤ 14 → (byteAt b i).toNat ≤ 40
  compare : (be16 (byteAt b 15) (byteAt b 16)).toNat ≤ 1000

/-- R22, R85, R97, R98, R109: the source of a frame whose attempt ends has nothing of its own to do with the slot: no
content held back, no withdrawal waiting, no other step or target wanted. -/
def State.Quiet (s : State) (src : Source) (q : Queued) : Prop :=
  match src with
  | .order | .ask | .series => True
  | .night => s.member.state ≠ .inSync ∨ s.wantedBody = some q.body
  | .reclaim => s.member.state ≠ .inSync ∨ ∃ n, s.overduePeer = some n ∧ q.body = s.reclaimBody n
  | .claim => s.claim.orphan = false ∧ s.claim.ageExpired = false
  | .release => s.rli.heldRelease = PerPool.all 0
  | .mark => s.rli.heldMark = .none

/-- No night newer than the one the sequencer has taken up is to be looked at when a terminal state is reached (R136). -/
def State.NoNewerNight (s : State) : Prop :=
  s.member.state ≠ .inSync ∨ newer s.replica.night.id s.seq.night = false

/-- R146: what a failed attempt leaves. That a request deferred behind a RESTORE request (R111) is dropped with the active
one is the model's choice (log 38). -/
structure AttemptFailed (c : Cause) (s t : State) : Prop where
  state : t.seq.state = .cooldown
  causes : t.seq.outcome.causes = s.seq.outcome.causes ++ [c]
  permit : t.seq.permit = false
  cooldown : t.seq.cooldown = .running 15000
  timers : t.seq.good = .stopped ∧ t.seq.settle = .stopped ∧ t.seq.contactTimer = .stopped
    ∧ t.seq.progressTimer = .stopped
  wake : t.seq.wake = s.seq.wake
  request : t.claim.request = none
  attempt : t.seq.attempt = s.seq.attempt ∧ t.seq.outcome.used = s.seq.outcome.used
  record : t.claim.ownHolds = s.claim.ownHolds
  replica : t.replica = s.replica

/-- R137, R151, R152: what an entry to LOCAL leaves, where no newer night is waiting. That a request deferred behind a
RESTORE request (R111) is dropped with the active one is the model's choice (log 38). -/
structure WentLocal (s t : State) : Prop where
  state : t.seq.state = .localUse
  outcome : t.seq.outcome.outcome = .localUse
  progress : t.seq.outcome.finalProgress = s.seq.progress
  causes : t.seq.outcome.causes = s.seq.outcome.causes
  request : t.claim.request = none ∧ t.claim.deferred = none
  record : t.claim.ownHolds = s.claim.ownHolds
  event : s.seq.outcome.outcome = .unset → t.isPending .outcomeReady = true
  mark : s.gate.emittedNight ≠ 0 → t.gate.emitted.has .localUse = true
  replica : t.replica = s.replica

/-- R69: what rejoin leaves; a SENDING slot is cleared at the end of its attempt. -/
structure Rejoined (s t : State) : Prop where
  state : t.member.state = .joining ∧ t.member.askCount = 0 ∧ t.member.askWait = .stopped
    ∧ t.member.cooldown = .stopped
  replica : t.replica = Replica.cold
  counts : t.night.start = .stopped ∧ t.night.deadline = .stopped ∧ t.night.grace = .stopped
    ∧ t.night.startDue = false ∧ t.night.deadlineDue = false ∧ t.night.graceDue = false
  slots : ∀ src, src ≠ .ask → (t.slot src).isWaiting = false
  ask : (s.slot .ask).isSending = false → t.slot .ask = .waiting { body := .ask, loss := 0, veto := 0 }
  sending : ∀ src q f c, s.slot src = .sending q f c → t.slot src = .sending q f true
  line : t.rli.vetoRun = 0 ∧ t.rli.collisions = 0 ∧ t.rli.permission = .granted
  statistics : t.rli.framesDelivered = s.rli.framesDelivered ∧ t.rli.framesVetoed = s.rli.framesVetoed
    ∧ t.rli.arbLosses = s.rli.arbLosses ∧ t.rli.rxErrors = s.rli.rxErrors
  catchUp : t.member.adopted = none ∧ t.member.buffer = [] ∧ t.member.lateRun = .none ∧ t.member.watch = none
    ∧ t.member.position = 0
  installed : t.member.installAnswerer = s.member.installAnswerer ∧ t.member.installAsker = s.member.installAsker
  engine : t.claim.ownHolds = s.claim.ownHolds ∧ t.claim.request = s.claim.request
  lastHeard : t.lastHeard = s.lastHeard
  sequencer : t.seq = s.seq
  gate : t.gate = s.gate
  events : t.link.events = s.link.events ∧ t.link.mask = s.link.mask

/-- R173, R177: what the verdict FAULT leaves. -/
structure FaultVerdict (s t : State) : Prop where
  loader : t.loader.state = .fault ∧ t.loader.readLimit = .stopped ∧ t.loader.image = []
  membership : t.member.state = .unconfigured
  event : t.isPending .configFault = true
  attn : t.attn = true
  link : t.link.address = 0x3A ∧ t.link.clearMode = .readClears ∧ t.link.pointer = .data
  settings : t.cfg = s.cfg
  replica : t.replica = s.replica
  queue : t.rli = s.rli
  sequencer : t.seq = s.seq

end Sys2Proof.Machine
end

