-- ==== Sys2Proof/Certificates/Slice0/Obligations.lean ====
section
/-! DEFINITION. The statements for the provers: the step and the queue of commands, the invariants, the formats, the
applier, the row line, membership, the night, the claims, the gate, the sequencer and the desktop link. -/

open Sys2Proof Sys2Proof.Machine

/-! ## The machine -/

/-- Log 1, log 33: a step takes the command at the front of the queue and runs it with the queue's rest. -/
def Obligations.StepRunsFrontCommand : Prop :=
  ∀ (c : Instr) (rest : List Instr) (s : State), s.pending = c :: rest → step s = exec c (s.setPending rest)

/-- Every command, in every state, answers a next state, and no command touches the queue. -/
def Obligations.EveryCommandAnswersNext : Prop :=
  ∀ (c : Instr) (s : State), ∃ t, exec c s = .next t ∧ t.pending = s.pending

/-- The station after reset, with every invariant below; the power inputs deasserted are the model's choice (log 5).
-/
def Obligations.ResetIsAfterColdStart : Prop :=
  State.reset.member.state = .loading ∧ State.reset.loader.state = .reading
    ∧ State.reset.replica = Replica.cold ∧ (∀ src, State.reset.slot src = .empty)
    ∧ State.reset.rli.vetoRun = 0 ∧ State.reset.rli.permission = .granted ∧ State.reset.rli.collisions = 0
    ∧ State.reset.lastHeard = List.replicate 40 0 ∧ State.reset.seq.state = .standby
    ∧ State.reset.seq.permit = true ∧ State.reset.deskButton = false ∧ State.reset.link.events = 0
    ∧ State.reset.link.view = 0 ∧ State.reset.link.station = 1 ∧ State.reset.attn = false
    ∧ State.reset.gate.isOpen = false ∧ State.reset.claim.ownHolds = PerPool.all 0 ∧ State.reset.pending = []
    ∧ LineRanges State.reset ∧ TableRanges State.reset ∧ LinkRanges State.reset ∧ AttemptLaw State.reset
    ∧ NewestInSet State.reset ∧ PoolLaws State.reset ∧ Replica.cold.inUseLaw ∧ Replica.cold.reservationLaw

/-- The frame of every command: the replica, the last-heard table, the settings, the loader, the power inputs and the
counter of free values are each written by the commands named here and by no other (R25, R27, R35, R176); a slot
becomes SENDING only at ATTEMPT_START, and only one that may contend in the membership state (R5, R20). -/
def Obligations.BlocksWrittenOnlyByTheirCauses : Prop :=
  ∀ (c : Instr) (s t : State), exec c s = .next t →
    (mayWriteReplica c = false → t.replica = s.replica)
    ∧ (mayWriteAges c = false → t.lastHeard = s.lastHeard)
    ∧ (mayWriteSettings c = false → t.cfg = s.cfg ∧ t.loader = s.loader)
    ∧ (mayWritePins c = false → t.pins = s.pins)
    ∧ ((∀ f, c ≠ .frameDelivered f) → t.freeCount = s.freeCount)
    ∧ ∀ src, (t.slot src).isSending = true →
        (s.slot src).isSending = true ∨ (c = .attemptStart ∧ mayContend s.member.state src = true)

/-! ## Invariants -/

/-- R8, R10, R17, R18, R20: one transmitter, and the counts of the queue and of the line stay within their limits. -/
def Obligations.LineRangesKept : Prop :=
  ∀ s t : State, LineRanges s → step s = .next t → LineRanges t

/-- R32, R35, R59, R61: forty entries, forty ages of at most 65535 s, at most sixteen buffered frames, and the runs
stored of an adopted series one fewer than the run expected next. -/
def Obligations.TableRangesKept : Prop :=
  ∀ s t : State, TableRanges s → step s = .next t → TableRanges t

/-- R142, R156 to R159, R163, 10.8: the selectors of the desktop link, its pending report, EVENTS, EVENT_MASK,
progress and the swallowed presses stay within their ranges. -/
def Obligations.LinkRangesKept : Prop :=
  ∀ s t : State, LinkRanges s → step s = .next t → LinkRanges t

/-- R138, R146, R121: attempts used never exceed the retry limit plus one, no more causes are listed than attempts were
used, and the pending newest stays a kind of the emitted-marks set. -/
def Obligations.AttemptLawKept : Prop :=
  (∀ s t : State, AttemptLaw s → step s = .next t → AttemptLaw t)
    ∧ ∀ s t : State, NewestInSet s → step s = .next t → NewestInSet t

/-- R30, R102: a station that stays IN_SYNC over a step keeps both laws of the pools. -/
def Obligations.PoolLawsKeptInSync : Prop :=
  ∀ s t : State, s.InSync → t.InSync → PoolLaws s → step s = .next t → PoolLaws t

/-! ## Formats -/

/-- R3, R6, R11, R179: a receiver reads from the groups of a sent frame exactly its sender and body, for every kind.
-/
def Obligations.ReceiverReadsWhatIsSent : Prop :=
  ∀ (cls wait station : Nat) (b : Body), cls ≤ 3 → wait ≤ 63 → 1 ≤ station → station ≤ 40 → b.Sendable →
    (kindClass b.kind = some cls ∨ kindClass b.kind = none) →
    receive (wireGroups (contentionField cls wait station) b) = .whole station b

/-- R2, R3: no frame as sent holds ten consecutive bit times of one level from its start bit to the check's last
spacer, and with its verdict slot of two bit times it takes 57 + 9 L bit times. -/
def Obligations.FramesAsSent : Prop :=
  ∀ (field : Word16) (b : Body),
    (∀ p, p + 9 < (frameLevels (wireGroups field b)).length →
      ∃ i, i < 9 ∧ (frameLevels (wireGroups field b))[p + i]? ≠ (frameLevels (wireGroups field b))[p + i + 1]?)
    ∧ (frameLevels (wireGroups field b)).length + 2 = 57 + 9 * b.bytes.length

/-- R180, R62: what an install writes from the 22 runs of a series is the night record, the pool table and the roster
that the answerer laid out in them. -/
def Obligations.SeriesCarriesTheReplica : Prop :=
  ∀ (free : Nat) (r : Replica) (u : NightUnit),
    r.night.capacities = r.pools.map PoolRecord.capacity →
    r.night.start < 65536 → r.night.deadline < 65536 → r.night.grace < 256 → r.night.relayer < 256 →
    (∀ p, (r.pools.get p).capacity < 256 ∧ (r.pools.get p).inUse < 256 ∧ (r.pools.get p).reserver < 256
      ∧ (r.pools.get p).reserved < 256) →
    r.roster.length = 40 →
    (∀ e ∈ r.roster, e.progress < 65536 ∧ e.attempt < 256 ∧ ∀ p, e.holds.get p < 256) →
    snapshotReplica free (run0Payload r.night u)
      ((List.range 21).map fun k => runPayload { pools := r.pools, roster := r.roster } (k + 1)) = r

/-! ## Applying a frame -/

/-- R33, R34, R36, R43, R44: the common change, on every kind of frame; asks, runs and unknown kinds make no other. -/
def Obligations.CommonChangeOfEveryFrame : Prop :=
  ∀ (r : Replica) (n : Nat), r.roster.length = 40 → 1 ≤ n → n ≤ 40 →
    ((commonChange r n).night = r.night ∧ (commonChange r n).pools = r.pools
      ∧ (commonChange r n).entry n = { r.entry n with presence := .present, heard := (r.entry n).heard + 1 }
      ∧ ∀ m, m ≠ n → (commonChange r n).entry m = r.entry m)
    ∧ (∀ b, ((applyFrame r n b).1.entry n).presence = .present
      ∧ ((applyFrame r n b).1.entry n).heard = (r.entry n).heard + 1
      ∧ ∀ m, m ≠ n → ((applyFrame r n b).1.entry m).heard = (r.entry m).heard)
    ∧ applyFrame r n .ask = (commonChange r n, .noPart)
    ∧ (∀ a i p, applyFrame r n (.run a i p) = (commonChange r n, .noPart))
    ∧ (∀ k bytes, applyFrame r n (.unknown k bytes) = (commonChange r n, .noPart))

/-- R99: a CLAIM is judged by the six tests in order; void, it changes nothing but by the common change; granted, it
writes the hold, in-use, the generation and the grantee's reservation and nothing else but the common change, and obeys
the law of the grant. -/
def Obligations.ClaimJudgedBySixTests : Prop :=
  ∀ (r : Replica) (n : Nat) (pool units flags : Byte) (gen : Word16),
    r.roster.length = 40 → 1 ≤ n → n ≤ 40 →
    (2 < pool.toNat ∨ units.toNat = 0 ∨ 15 < units.toNat →
      applyFrame r n (.claim pool units gen flags) = (commonChange r n, .refused))
    ∧ (∀ (p : Pool) (rec_ : PoolRecord), p.code = pool → 1 ≤ units.toNat → units.toNat ≤ 15 → rec_ = r.pools.get p →
        (applyFrame r n (.claim pool units gen flags)).2 =
          (if ¬ (r.night.state = .running ∨ (flags.getLsbD 0 = true ∧ p = .load)) then .refused
          else if (r.entry n).holds.get p ≠ 0 then .refused
          else if gen ≠ rec_.generation then .stale
          else if rec_.reserver ≠ 0 ∧ rec_.reserver ≠ n ∧ rec_.capacity < rec_.inUse + units.toNat + rec_.reserved then
            .blocked
          else if rec_.capacity < rec_.inUse + units.toNat then .short
          else .made)
        ∧ ((applyFrame r n (.claim pool units gen flags)).2 ≠ .made →
            (applyFrame r n (.claim pool units gen flags)).1 = commonChange r n)
        ∧ ((applyFrame r n (.claim pool units gen flags)).2 = .made →
            ∃ t, (applyFrame r n (.claim pool units gen flags)).1 = t ∧ t.night = r.night
            ∧ (∀ q, q ≠ p → t.pools.get q = r.pools.get q)
            ∧ t.pools.get p =
                { capacity := rec_.capacity, inUse := rec_.inUse + units.toNat, generation := rec_.generation + 1
                  reserver := if rec_.reserver = n then 0 else rec_.reserver
                  reserved := if rec_.reserver = n then 0 else rec_.reserved }
            ∧ t.roster = rosterModify (commonChange r n).roster n (fun e => { e with
                holds := e.holds.set p units.toNat })
            ∧ (∀ m q, (t.entry m).holds.get q = if m = n ∧ q = p then units.toNat else (r.entry m).holds.get q)
            ∧ (t.pools.get p).inUse
                + (if (t.pools.get p).reserver ≠ 0 ∧ (t.pools.get p).reserver ≠ n then (t.pools.get p).reserved else 0)
                ≤ (t.pools.get p).capacity))

/-- R102, R103: a PARK is judged by its four tests in order and places the sender's reservation; an UNPARK clears the
sender's own, and is void otherwise. -/
def Obligations.ParkAndUnparkRules : Prop :=
  ∀ (r : Replica) (n : Nat) (p : Pool) (code units : Byte), r.roster.length = 40 → 1 ≤ n → n ≤ 40 →
    (2 < code.toNat ∨ units.toNat = 0 ∨ 15 < units.toNat →
      applyFrame r n (.park code units) = (commonChange r n, .refused))
    ∧ (1 ≤ units.toNat → units.toNat ≤ 15 →
        (r.night.state ≠ .running ∨ (r.pools.get p).reserver ≠ 0 ∨ (r.entry n).holds.get p ≠ 0 →
          applyFrame r n (.park p.code units) = (commonChange r n, .busy))
        ∧ (r.night.state = .running → (r.pools.get p).reserver = 0 → (r.entry n).holds.get p = 0 →
          ∃ t, applyFrame r n (.park p.code units) = (t, .made) ∧ t.night = r.night
            ∧ t.roster = (commonChange r n).roster ∧ (∀ q, q ≠ p → t.pools.get q = r.pools.get q)
            ∧ t.pools.get p = { r.pools.get p with
                reserver := n, reserved := units.toNat, generation := (r.pools.get p).generation + 1 }))
    ∧ (2 < code.toNat → applyFrame r n (.unpark code) = (commonChange r n, .void))
    ∧ ((r.pools.get p).reserver ≠ n → applyFrame r n (.unpark p.code) = (commonChange r n, .void))
    ∧ ((r.pools.get p).reserver = n → ∃ t, applyFrame r n (.unpark p.code) = (t, .made) ∧ t.night = r.night
        ∧ t.roster = (commonChange r n).roster ∧ (∀ q, q ≠ p → t.pools.get q = r.pools.get q)
        ∧ t.pools.get p = { r.pools.get p with
            reserver := 0, reserved := 0, generation := (r.pools.get p).generation + 1 })

/-- R105: a RELEASE is judged pool by pool; the premise is the law of in-use (R30). -/
def Obligations.ReleaseZeroesExactHolds : Prop :=
  ∀ (r : Replica) (n : Nat) (units : PerPool Byte) (t : Replica) (v : Verdict), r.inUseLaw → 1 ≤ n → n ≤ 40 →
    applyFrame r n (.release units.surge units.load units.feed) = (t, v) →
    t.night = r.night
    ∧ (∀ p, (units.get p).toNat ≠ 0 ∧ (r.entry n).holds.get p = (units.get p).toNat →
        (t.entry n).holds.get p = 0
        ∧ t.pools.get p = { r.pools.get p with
            inUse := (r.pools.get p).inUse - (units.get p).toNat, generation := (r.pools.get p).generation + 1 })
    ∧ (∀ p, ¬ ((units.get p).toNat ≠ 0 ∧ (r.entry n).holds.get p = (units.get p).toNat) →
        (t.entry n).holds.get p = (r.entry n).holds.get p ∧ t.pools.get p = r.pools.get p)
    ∧ (∀ m, m ≠ n → t.entry m = r.entry m)
    ∧ (v = .made ↔ ∃ p, (units.get p).toNat ≠ 0 ∧ (r.entry n).holds.get p = (units.get p).toNat)
    ∧ (v ≠ .made → v = .void ∧ t = commonChange r n)

/-- R108: a RECLAIM whose three conditions hold strips the target; any other is void. The premise is the law of in-use
(R30). -/
def Obligations.ReclaimStripsSilentTarget : Prop :=
  ∀ (r : Replica) (n : Nat) (target heard : Byte) (t : Replica) (v : Verdict), r.inUseLaw → 1 ≤ n → n ≤ 40 →
    applyFrame r n (.reclaim target heard) = (t, v) →
    (¬ (1 ≤ target.toNat ∧ target.toNat ≤ 40 ∧ target.toNat ≠ n ∧ (r.entry target.toNat).heard = heard
        ∧ ((∃ p, (r.entry target.toNat).holds.get p ≠ 0) ∨ ∃ p, (r.pools.get p).reserver = target.toNat)) →
      v = .void ∧ t = commonChange r n)
    ∧ (1 ≤ target.toNat ∧ target.toNat ≤ 40 ∧ target.toNat ≠ n ∧ (r.entry target.toNat).heard = heard
        ∧ ((∃ p, (r.entry target.toNat).holds.get p ≠ 0) ∨ ∃ p, (r.pools.get p).reserver = target.toNat) →
      v = .made ∧ t.night = r.night
      ∧ t.entry target.toNat = { r.entry target.toNat with holds := PerPool.all 0, presence := .silent }
      ∧ (∀ m, m ≠ n → m ≠ target.toNat → t.entry m = r.entry m)
      ∧ ∀ p, t.pools.get p =
          if (r.entry target.toNat).holds.get p ≠ 0 ∨ (r.pools.get p).reserver = target.toNat then
            { capacity := (r.pools.get p).capacity
              inUse := (r.pools.get p).inUse - (r.entry target.toNat).holds.get p
              generation := (r.pools.get p).generation + 1
              reserver := if (r.pools.get p).reserver = target.toNat then 0 else (r.pools.get p).reserver
              reserved := if (r.pools.get p).reserver = target.toNat then 0 else (r.pools.get p).reserved }
          else r.pools.get p)

/-- R39, R40: a MARK that passes the tests writes its sender's marks (as a union), state, progress and attempt; one
that fails any is void. -/
def Obligations.MarkWritesItsSendersEntry : Prop :=
  ∀ (r : Replica) (n : Nat) (night : Word16) (newest marks state att fill : Byte) (progress : Word16) (t : Replica)
    (v : Verdict), r.roster.length = 40 → 1 ≤ n → n ≤ 40 →
    applyFrame r n (.mark night newest marks state progress att fill) = (t, v) →
    (∀ st : ShownState, night ≠ 0 → night = r.night.id → st.code = state → progress.toNat ≤ 1000 → att.toNat ≤ 4 →
      (newest = 0xFF ∨ ∃ k : MarkKind, newest = k.code ∧ MarkSet.has marks k = true) →
      v = .made ∧ t.night = r.night ∧ t.pools = r.pools
      ∧ t.entry n = { r.entry n with
          marks := (r.entry n).marks ||| marks, state := some st, progress := progress.toNat, attempt := att.toNat
          presence := .present, heard := (r.entry n).heard + 1 }
      ∧ ∀ m, m ≠ n → t.entry m = r.entry m)
    ∧ (night = 0 ∨ night ≠ r.night.id ∨ state.toNat = 0 ∨ 12 < state.toNat ∨ 1000 < progress.toNat ∨ 4 < att.toNat
        ∨ (newest ≠ 0xFF ∧ ∀ k : MarkKind, newest = k.code → MarkSet.has marks k = false) →
      v = .void ∧ t = commonChange r n)

/-- R78, R82: an ORDER that meets its conditions writes the whole night record and each capacity, clears every
reservation and empties every entry's marks and state; any other is void. -/
def Obligations.OrderWritesTheNight : Prop :=
  ∀ (r : Replica) (n : Nat) (id start deadline : Word16) (image : Word32) (grace : Byte) (caps : PerPool Byte)
    (t : Replica) (v : Verdict), r.roster.length = 40 → 1 ≤ n → n ≤ 40 →
    applyFrame r n (.order id image start deadline grace caps.surge caps.load caps.feed) = (t, v) →
    (newer id r.night.id = true → (r.night.state = .idle ∨ r.night.state = .ended) →
      start.toNat ≤ 720 → 1 ≤ deadline.toNat → deadline.toNat ≤ 900 → start.toNat < deadline.toNat →
      grace.toNat ≤ 120 →
      v = .made
      ∧ t.night = { id := id, image := image, state := if start = 0 then .running else .pending
                    heldFrom := .pending, aborted := false, start := start.toNat, deadline := deadline.toNat
                    grace := grace.toNat, capacities := caps.map BitVec.toNat, relayer := n }
      ∧ (∀ p, t.pools.get p =
          { capacity := (caps.get p).toNat, inUse := (r.pools.get p).inUse
            generation := if (r.pools.get p).reserver = 0 then (r.pools.get p).generation
              else (r.pools.get p).generation + 1
            reserver := 0
            reserved := if (r.pools.get p).reserver = 0 then (r.pools.get p).reserved else 0 })
      ∧ (∀ m, 1 ≤ m → m ≤ 40 → (t.entry m).marks = 0 ∧ (t.entry m).state = none
          ∧ (t.entry m).holds = (r.entry m).holds ∧ (t.entry m).progress = (r.entry m).progress
          ∧ (t.entry m).attempt = (r.entry m).attempt))
    ∧ (newer id r.night.id = false ∨ (r.night.state ≠ .idle ∧ r.night.state ≠ .ended) ∨ 720 < start.toNat
        ∨ deadline.toNat = 0 ∨ 900 < deadline.toNat ∨ deadline.toNat ≤ start.toNat ∨ 120 < grace.toNat →
      v = .void ∧ t = commonChange r n)

/-- R79, R80, R82: a NIGHT frame that forms a row and whose view stands moves the night; any other is void. -/
def Obligations.NightFrameMovesTheNight : Prop :=
  ∀ (r : Replica) (n : Nat) (id : Word16) (a : NightAction) (f t : NightState) (r' : Replica) (v : Verdict)
    (row : Prop),
    (row ↔ (a = .step ∧ f = .pending ∧ t = .running)
      ∨ (a = .step ∧ (f = .pending ∨ f = .running ∨ f = .held) ∧ t = .closing)
      ∨ (a = .step ∧ f = .closing ∧ t = .ended)
      ∨ (a = .hold ∧ (f = .pending ∨ f = .running) ∧ t = .held)
      ∨ (a = .resume ∧ f = .held ∧ (t = .pending ∨ t = .running))
      ∨ (a = .abort ∧ (f = .pending ∨ f = .running ∨ f = .held ∨ f = .closing) ∧ t = .ended)) →
    applyFrame r n (.night id a.code f.code t.code) = (r', v) →
    (id = r.night.id → f = r.night.state → row → (a = .resume → t = r.night.heldFrom.state) →
      v = .made
      ∧ r'.night = { r.night with
          state := t
          heldFrom := if a = .hold ∧ f = .running then .running else if a = .hold then .pending else r.night.heldFrom
          aborted := r.night.aborted || a == .abort }
      ∧ r'.roster = (commonChange r n).roster
      ∧ ∀ p, r'.pools.get p =
          if (a = .hold ∨ a = .abort ∨ (a = .step ∧ t = .closing)) ∧ (r.pools.get p).reserver ≠ 0 then
            { r.pools.get p with reserver := 0, reserved := 0, generation := (r.pools.get p).generation + 1 }
          else r.pools.get p)
    ∧ (id ≠ r.night.id ∨ f ≠ r.night.state ∨ ¬ row ∨ (a = .resume ∧ t ≠ r.night.heldFrom.state) →
      v = .void ∧ r' = commonChange r n)
    ∧ (∀ x y z : Byte, x = 0 ∨ 4 < x.toNat ∨ 5 < y.toNat ∨ 5 < z.toNat →
      applyFrame r n (.night id x y z) = (commonChange r n, .void))

/-- R74: when an order id is newer than the replica's. -/
def Obligations.NewerOrderIds : Prop :=
  ∀ x c : Word16,
    (c ≠ 0 → x ≠ 0 → (newer x c = true ↔ 1 ≤ (x - c).toNat ∧ (x - c).toNat ≤ 32767))
    ∧ (c = 0 → x ≠ 0 → newer x c = true) ∧ newer 0 c = false

/-- R31: an application raises a pool's generation by one exactly where it changes a hold in the pool or its
reservation, and leaves it otherwise. -/
def Obligations.GenerationCountsPoolChanges : Prop :=
  ∀ (r : Replica) (n : Nat) (b : Body) (p : Pool), r.inUseLaw → r.reservationLaw → 1 ≤ n → n ≤ 40 →
    (((∃ m, (((applyFrame r n b).1).entry m).holds.get p ≠ (r.entry m).holds.get p)
        ∨ (((applyFrame r n b).1).pools.get p).reserver ≠ (r.pools.get p).reserver) →
      (((applyFrame r n b).1).pools.get p).generation = (r.pools.get p).generation + 1)
    ∧ ((∀ m, (((applyFrame r n b).1).entry m).holds.get p = (r.entry m).holds.get p) →
        (((applyFrame r n b).1).pools.get p).reserver = (r.pools.get p).reserver →
      (((applyFrame r n b).1).pools.get p).generation = (r.pools.get p).generation
        ∧ (((applyFrame r n b).1).pools.get p).inUse = (r.pools.get p).inUse)

/-- R30, R102: every application keeps in-use equal to the sum of the holds, and every reservation lawful. -/
def Obligations.ApplierKeepsPoolLaws : Prop :=
  ∀ (r : Replica) (n : Nat) (b : Body), 1 ≤ n → n ≤ 40 → r.inUseLaw → r.reservationLaw →
    (applyFrame r n b).1.inUseLaw ∧ (applyFrame r n b).1.reservationLaw

/-! ## Cold start and the configuration (chapter 9) -/

/-- R131, R132, R173: COLD_START gives every piece of state its initial value over the levels of the power inputs; the
queue is the world's (log 1) and the counter of free values runs on (log 8). The settings before the hand-off, the
pointer and what else the spec gives no initial value are the model's choices (logs 6, 30 and 31). -/
def Obligations.ColdStartTakesInitialValues : Prop :=
  ∀ (powerGood supplyReq panelButton : Bool) (s : State), ∃ t,
    exec (.coldStart powerGood supplyReq panelButton) s = .next t
    ∧ t.member = Member.cold ∧ t.member.state = .loading ∧ t.loader = Loader.cold
    ∧ t.loader.state = .reading ∧ t.loader.readLimit = .running 100 ∧ t.loader.image = []
    ∧ t.replica = Replica.cold ∧ (∀ src, t.slot src = .empty) ∧ t.rli = Rli.cold
    ∧ t.rli.vetoRun = 0 ∧ t.rli.permission = .granted ∧ t.rli.collisions = 0 ∧ t.rli.stuck = false
    ∧ t.lastHeard = List.replicate 40 0 ∧ t.seq = Sequencer.cold powerGood
    ∧ t.seq.state = (if powerGood then .localUse else .standby) ∧ t.seq.night = 0 ∧ t.seq.permit = true
    ∧ t.deskButton = false ∧ t.seq.outcome.outcome = .unset ∧ t.seq.outcome.night = 0 ∧ t.seq.attempt = 0
    ∧ t.claim = ClaimEngine.cold ∧ t.gate = GateMark.cold ∧ t.night = NightUnit.cold ∧ t.link = LinkPort.cold
    ∧ t.link.view = 0 ∧ t.link.index = 0 ∧ t.link.station = 1 ∧ t.link.events = 0 ∧ t.link.mask = 0x1F
    ∧ t.link.capture = none ∧ t.link.report = [] ∧ t.link.reportStatus = .none ∧ t.attn = false
    ∧ t.cfg = Settings.blank ∧ t.freeCount = s.freeCount
    ∧ t.pins.powerGood = powerGood ∧ t.pins.supplyReq = supplyReq ∧ t.pins.panelButton = panelButton
    ∧ t.pending = s.pending

/-- R48, R71, R173 to R177: CONFIG_READ_DONE judges a block read in full; an accepted one is handed out, the order
receiver awaits its first silence and the station joins, any other gives the verdict FAULT, and so does
READ_LIMIT_EXPIRY. -/
def Obligations.ConfigurationIsJudged : Prop :=
  ∀ s : State, s.loader.state = .reading →
    (∀ b : List Byte, b.length = 20 →
      (BlockAccepted b → ∃ t, exec (.configReadDone b) s = .next t
        ∧ t.loader.state = .valid ∧ t.loader.readLimit = .stopped ∧ t.loader.image = []
        ∧ t.member.state = .joining ∧ t.member.askCount = 0
        ∧ (s.slot .ask = .empty → t.slot .ask = fresh .ask)
        ∧ t.cfg.station = (byteAt b 1).toNat ∧ t.cfg.rowTag = be16 (byteAt b 2) (byteAt b 3)
        ∧ t.cfg.cost = ⟨(byteAt b 5).toNat, (byteAt b 6).toNat, (byteAt b 7).toNat⟩
        ∧ t.cfg.retryLimit = (byteAt b 8).toNat ∧ GateMode.ofCode (byteAt b 9) = some t.cfg.gateMode
        ∧ MarkKind.ofAwaitedCode (byteAt b 10) = some t.cfg.awaited
        ∧ t.cfg.leads = [(byteAt b 11).toNat, (byteAt b 12).toNat, (byteAt b 13).toNat, (byteAt b 14).toNat]
        ∧ t.cfg.compare = (be16 (byteAt b 15) (byteAt b 16)).toNat ∧ t.cfg.participates = (byteAt b 17).getLsbD 0
        ∧ t.link.address = byteAt b 4 ∧ t.link.pointer = .data
        ∧ t.link.clearMode = (if (byteAt b 17).getLsbD 1 then .writeClears else .readClears)
        ∧ t.night = { s.night with awaitsSilence := true }
        ∧ t.link.events = s.link.events ∧ t.replica = s.replica ∧ t.seq = s.seq ∧ t.pins = s.pins)
      ∧ (¬ BlockAccepted b → ∃ t, exec (.configReadDone b) s = .next t ∧ FaultVerdict s t))
    ∧ (s.loader.readLimit.isRunning = true → ∃ t, exec .readLimitExpiry s = .next t ∧ FaultVerdict s t)

/-! ## The row line (chapter 1) -/

/-- R4, R6, R8: ATTEMPT_START sends the WAITING frame that may contend with the lowest field, the earlier slot between
equals, built as R6 gives; run 0 goes out with the values as they stand (R54). Where nothing contends, or an attempt
is under way or the line is stuck, it changes nothing. -/
def Obligations.AttemptStartSendsLowestField : Prop :=
  ∀ s : State, s.cfg.station ≤ 40 →
    (s.sendingSource = none → s.rli.stuck = false →
      (∃ src q, mayContend s.member.state src = true ∧ s.slot src = .waiting q) →
      ∃ t src q f, exec .attemptStart s = .next t ∧ t = (currentRun0 s).setSlot src (.sending q f false)
        ∧ mayContend s.member.state src = true ∧ (currentRun0 s).slot src = .waiting q
        ∧ t.slot src = .sending q f false ∧ (∀ o, o ≠ src → t.slot o = (currentRun0 s).slot o)
        ∧ f.toNat = (kindClass q.body.kind).getD 3 * 16384 + (63 - min (s.frameAge q) 63) * 256 + s.cfg.station
        ∧ (∀ o q', mayContend s.member.state o = true → (currentRun0 s).slot o = .waiting q' →
            f.toNat ≤ (s.fieldOf q').toNat
              ∧ (Source.all.idxOf o < Source.all.idxOf src → f.toNat < (s.fieldOf q').toNat))
        ∧ Kept s t ∧ t.member = s.member ∧ t.night = s.night ∧ t.claim = s.claim ∧ t.seq = s.seq
        ∧ t.gate = s.gate ∧ t.link = s.link)
    ∧ (s.sendingSource ≠ none ∨ s.rli.stuck = true
        ∨ (∀ src q, s.slot src = .waiting q → mayContend s.member.state src = false) →
      exec .attemptStart s = .next s)

/-- R7: LOST_ARBITRATION returns the slot to WAITING, with its loss count and ARB_LOSSES risen, and changes nothing
else where the source has nothing of its own to do; a slot that rejoin has cleared becomes EMPTY (R23). -/
def Obligations.LostArbitrationReturnsTheSlot : Prop :=
  ∀ (s : State) (src : Source) (q : Queued) (f : Word16) (cleared : Bool), s.sendingSource = some src →
    s.slot src = .sending q f cleared →
    (∃ t, exec .lostArbitration s = .next t ∧ t.rli.arbLosses = s.rli.arbLosses + 1
      ∧ t.rli.framesDelivered = s.rli.framesDelivered ∧ t.rli.framesVetoed = s.rli.framesVetoed
      ∧ t.rli.rxErrors = s.rli.rxErrors ∧ t.rli.vetoRun = s.rli.vetoRun ∧ t.rli.collisions = s.rli.collisions
      ∧ t.member.state = s.member.state ∧ Kept s t ∧ (t.slot src).isSending = false
      ∧ (cleared = true → src = .order ∨ src = .reclaim → s.member.state ≠ .inSync → t.slot src = .empty))
    ∧ (cleared = false → s.Quiet src q →
      exec .lostArbitration s = .next ((s.setRli { s.rli with arbLosses := s.rli.arbLosses + 1 }).setSlot src
        (.waiting { q with loss := min (q.loss + 1) 63 })))

/-- R9, R10, R23, R67: COLLISION returns the slot to WAITING with its counts; the third in a row isolates a station in
which slots contend, with no joiner or answerer state left. A slot that rejoin has cleared becomes EMPTY. -/
def Obligations.CollisionCountsAndIsolates : Prop :=
  ∀ (s : State) (src : Source) (q : Queued) (f : Word16), s.sendingSource = some src →
    (s.slot src = .sending q f false → s.Quiet src q → s.rli.collisions < 2 → exec .collision s = .next
      ((s.setRli { s.rli with collisions := s.rli.collisions + 1 }).setSlot src (.waiting q)))
    ∧ (s.slot src = .sending q f false → s.Quiet src q → s.rli.collisions = 2 →
      s.member.state = .joining ∨ s.member.state = .collecting ∨ s.member.state = .inSync →
      ∃ t, exec .collision s = .next t ∧ t.member.state = .isolated ∧ t.rli.collisions = 0
        ∧ t.slot src = .waiting q ∧ (∀ o, o ≠ src → t.slot o = s.slot o)
        ∧ t.isPending .isolated = true ∧ t.isPending .duplicateNumber = true
        ∧ t.member.cooldown = .running 600000 ∧ t.member.askWait = .stopped ∧ t.member.adopted = none
        ∧ t.member.buffer = [] ∧ t.member.seriesGap = .stopped ∧ t.member.onlyAsks = false
        ∧ t.member.lateRun = .none ∧ t.member.answerPending = false ∧ t.member.askHeld = false ∧ t.member.asker = 0
        ∧ t.member.position = 0 ∧ t.member.snapshot = none ∧ t.member.pause = .stopped
        ∧ t.member.watch = none ∧ t.claim.watching = false
        ∧ t.claim.claimAge = .stopped ∧ t.claim.request = s.claim.request ∧ t.replica = s.replica ∧ t.seq = s.seq)
    ∧ (s.slot src = .sending q f true → s.rli.collisions < 2 →
      ∃ t, exec .collision s = .next t ∧ t.rli.collisions = s.rli.collisions + 1 ∧ (t.slot src).isSending = false
        ∧ t.member.state = s.member.state ∧ t.rli.framesDelivered = s.rli.framesDelivered
        ∧ t.rli.framesVetoed = s.rli.framesVetoed ∧ t.rli.arbLosses = s.rli.arbLosses ∧ t.rli.rxErrors = s.rli.rxErrors
        ∧ t.rli.vetoRun = s.rli.vetoRun ∧ Kept s t
        ∧ (src = .order ∨ src = .reclaim → s.member.state ≠ .inSync → t.slot src = .empty))

/-- R11, R12, R15, R18, R60: a frame on which this station finds fault raises RX_ERRORS and ends as vetoed; the veto
run rises where it may veto and returns to 0 where it may not, and a COLLECTING station that may not veto abandons its
catch-up. LOST_FRAMING and a malformed frame alike. -/
def Obligations.FaultyFrameEndsVetoed : Prop :=
  ∀ (s : State) (c : Instr) (g : List Group), s.framing = true →
    (c = .lostFraming ∨ ((c = .frameVetoed (.heard g) ∨ c = .frameDelivered (.heard g))
      ∧ (receive g = .malformed ∨ receive g = .lost))) →
    (s.mayVeto = true → s.rli.vetoRun < 7 → exec c s = .next (s.setRli { s.rli with
      rxErrors := s.rli.rxErrors + 1, framesVetoed := s.rli.framesVetoed + 1, vetoRun := s.rli.vetoRun + 1 }))
    ∧ (s.mayVeto = false → s.member.state ≠ .collecting → exec c s = .next (s.setRli { s.rli with
      rxErrors := s.rli.rxErrors + 1, framesVetoed := s.rli.framesVetoed + 1, vetoRun := 0 }))
    ∧ (s.mayVeto = false → s.member.state = .collecting → s.member.askCount < 4 → ∃ t, exec c s = .next t
      ∧ t.rli.rxErrors = s.rli.rxErrors + 1 ∧ t.rli.framesVetoed = s.rli.framesVetoed + 1 ∧ t.rli.vetoRun = 0
      ∧ t.member.state = .joining ∧ t.member.adopted = none ∧ t.member.buffer = []
      ∧ (s.slot .ask = .empty → t.slot .ask = fresh .ask) ∧ t.replica = s.replica ∧ t.seq = s.seq)

/-- R18, R65, R66: the eighth veto in a row takes an IN_SYNC station through DESYNC to JOINING: lost framing and a
malformed frame alike. -/
def Obligations.EighthVetoEntersDesync : Prop :=
  ∀ (s : State) (c : Instr) (g : List Group), s.framing = true →
    (c = .lostFraming ∨ ((c = .frameVetoed (.heard g) ∨ c = .frameDelivered (.heard g))
      ∧ (receive g = .malformed ∨ receive g = .lost))) →
    s.mayVeto = true → s.rli.vetoRun = 7 → s.InSync →
    ∃ t, exec c s = .next t ∧ t.member.state = .joining ∧ t.member.askCount = 0
      ∧ t.rli.permission = .withheld ∧ t.rli.vetoRun = 0 ∧ t.rli.collisions = s.rli.collisions
      ∧ t.isPending .desync = true ∧ t.replica = Replica.cold
      ∧ (∀ src, src ≠ .mark → src ≠ .ask → t.slot src = .empty) ∧ t.slot .mark = s.slot .mark
      ∧ (s.slot .ask = .empty → t.slot .ask = fresh .ask)
      ∧ t.night.start = .stopped ∧ t.night.deadline = .stopped ∧ t.night.grace = .stopped
      ∧ t.night.startDue = false ∧ t.night.deadlineDue = false ∧ t.night.graceDue = false
      ∧ t.member.answerPending = false ∧ t.member.askHeld = false ∧ t.member.position = 0 ∧ t.member.watch = none
      ∧ t.claim.request = s.claim.request ∧ t.claim.ownHolds = s.claim.ownHolds
      ∧ (∀ q p, s.slot .release = .waiting q → q.body.released.get p ≠ 0 → t.claim.owed.get p = true)
      ∧ t.seq = s.seq ∧ t.gate = s.gate ∧ t.lastHeard = s.lastHeard

/-- R14, R35, R36, R46: a whole frame delivered is counted, resets its sender's age and is applied by an IN_SYNC
station; an ISOLATED or UNCONFIGURED one sets it aside. -/
def Obligations.DeliveredFrameIsHandedOver : Prop :=
  ∀ (s : State) (g : List Group) (n : Nat) (b : Body), s.framing = true → receive g = .whole n b →
    (s.InSync → ∃ t, exec (.frameDelivered (.heard g)) s = .next t
      ∧ t.replica = (applyFrame s.replica n b).1 ∧ t.lastHeard = resetAge s.lastHeard n
      ∧ t.rli.framesDelivered = s.rli.framesDelivered + 1 ∧ t.rli.vetoRun = 0
      ∧ t.rli.framesVetoed = s.rli.framesVetoed ∧ t.rli.rxErrors = s.rli.rxErrors ∧ t.member.state = .inSync
      ∧ t.cfg = s.cfg ∧ t.pins = s.pins)
    ∧ (s.member.state = .isolated ∨ s.member.state = .unconfigured →
      exec (.frameDelivered (.heard g)) s = .next ((s.setRli { s.rli with
        framesDelivered := s.rli.framesDelivered + 1, vetoRun := 0 }).setLastHeard (resetAge s.lastHeard n)))

/-- R14, R38, R49, R60: this station's own frame delivered: counted, applied while IN_SYNC with itself as the sender;
its own ask delivered while JOINING raises the ask count and starts the ask wait with the note that only asks were
heard, which the late run of an abandoned series has cleared (R60; which run and which wait is the model's choice, log
37). -/
def Obligations.OwnFrameDelivered : Prop :=
  ∀ (s : State) (src : Source) (q : Queued) (f : Word16), s.receiving = true → s.sendingSource = some src →
    s.slot src = .sending q f false →
    (s.InSync → ∃ t, exec (.frameDelivered .own) s = .next t
      ∧ t.replica = (applyFrame s.replica s.cfg.station q.body).1
      ∧ t.lastHeard = resetAge s.lastHeard s.cfg.station
      ∧ t.rli.framesDelivered = s.rli.framesDelivered + 1 ∧ t.rli.vetoRun = 0 ∧ t.rli.collisions = 0
      ∧ (t.slot src).isSending = false)
    ∧ (s.member.state = .joining → src = .ask → s.rli.askOwed = false →
      ∃ t, exec (.frameDelivered .own) s = .next t ∧ t.member.state = .joining
        ∧ t.member.askCount = s.member.askCount + 1 ∧ t.member.askWait = .running 2000
        ∧ (t.member.onlyAsks = true ↔ s.member.lateRun ≠ .heard) ∧ t.member.lateRun = .none
        ∧ t.slot .ask = .empty ∧ t.replica = s.replica)

/-- R58 to R61: a JOINING station with its ask wait running adopts a series at its run 0; a COLLECTING one stores the
next run and buffers any other frame. A JOINING station with no ask wait running that hears the next run of the series
its gap abandoned keeps that for the ask wait that follows, and sets any other frame aside; which run this is, is the
model's choice (log 37). -/
def Obligations.JoinerCollectsASeries : Prop :=
  ∀ (s : State) (g : List Group) (n : Nat), s.framing = true →
    (∀ asker payload, receive g = .whole n (.run asker 0 payload) →
      (s.member.state = .joining ∧ s.member.askWait.isRunning = true) ∨ s.member.state = .collecting →
      ∃ t, exec (.frameDelivered (.heard g)) s = .next t ∧ t.member.state = .collecting
        ∧ t.member.adopted = some { answerer := n, next := 1, asker := asker.toNat, run0 := payload, runs := [] }
        ∧ t.member.buffer = [] ∧ t.member.askWait = .stopped ∧ t.member.seriesGap = .running 1000
        ∧ t.member.askCount = s.member.askCount ∧ t.replica = s.replica)
    ∧ (∀ a asker index payload, receive g = .whole n (.run asker index payload) → s.member.state = .collecting →
      s.member.adopted = some a → n = a.answerer → index.toNat = a.next → 1 ≤ a.next → a.next ≤ 20 →
      runNumbersOk a.next payload = true →
      ∃ t, exec (.frameDelivered (.heard g)) s = .next t ∧ t.member.state = .collecting
        ∧ t.member.adopted = some { a with next := a.next + 1, runs := a.runs ++ [payload] }
        ∧ t.member.seriesGap = .running 1000 ∧ t.replica = s.replica)
    ∧ (∀ a b, receive g = .whole n b → b.kind ≠ 0x42 → s.member.state = .collecting → s.member.adopted = some a →
      s.member.buffer.length < 16 →
      ∃ t, exec (.frameDelivered (.heard g)) s = .next t ∧ t.member.state = .collecting
        ∧ t.member.buffer = s.member.buffer ++
            [{ sender := n, body := b, own := false, lastRun := a.next - 1, age := 0 }]
        ∧ t.replica = s.replica)
    ∧ (∀ b late, receive g = .whole n b → s.member.state = .joining → s.member.askWait.isRunning = false →
      (late ↔ ∃ asker index payload, b = .run asker index payload ∧ s.member.lateRun = .awaited n index.toNat
        ∧ runNumbersOk index.toNat payload = true) →
      ∃ t, exec (.frameDelivered (.heard g)) s = .next t ∧ t.replica = s.replica
        ∧ (late → t.member = { s.member with lateRun := .heard }) ∧ (¬ late → t.member = s.member))

/-- R62, R64, R87: run 21 installs the collected series: the replica read from the runs with the common changes of the
22 runs less run 0's own (R45), the counts and flags of run 0, and entry to IN_SYNC; here with an empty buffer. With
frames in it the station enters IN_SYNC too. -/
def Obligations.LastRunInstallsTheReplica : Prop :=
  ∀ (s : State) (g : List Group) (a : Adopted) (asker index : Byte) (payload : List Byte), s.framing = true →
    receive g = .whole a.answerer (.run asker index payload) → s.member.state = .collecting →
    s.member.adopted = some a → index = 21 → a.next = 21 → runNumbersOk 21 payload = true →
    ∃ t, exec (.frameDelivered (.heard g)) s = .next t
      ∧ t.member.state = .inSync ∧ t.member.askCount = 0 ∧ t.member.adopted = none ∧ t.member.buffer = []
      ∧ t.member.installAnswerer = a.answerer ∧ t.member.installAsker = a.asker
      ∧ t.rli.vetoRun = 0 ∧ t.rli.permission = .granted ∧ t.claim.watching = true
      ∧ t.cfg = s.cfg ∧ t.pins = s.pins
      ∧ (s.member.buffer = [] →
        t.replica = commonChanges a.answerer 21 (snapshotReplica s.freeCount a.run0 (a.runs ++ [payload]))
        ∧ t.night.startDue = (byteAt a.run0 6).getLsbD 5 ∧ t.night.deadlineDue = (byteAt a.run0 6).getLsbD 6
        ∧ t.night.graceDue = (byteAt a.run0 6).getLsbD 7
        ∧ (t.replica.night.state ≠ .closing →
          t.night.start = carriedCount (wordAt a.run0 13).toNat
          ∧ t.night.deadline = carriedCount (wordAt a.run0 15).toNat ∧ t.night.grace = .stopped)
        ∧ (t.replica.night.state = .closing → t.night.start = .stopped ∧ t.night.deadline = .stopped
          ∧ t.night.grace = carriedCount (wordAt a.run0 13).toNat))

/-- R15 to R17: a frame vetoed by others returns the veto run to 0; an own frame vetoed below the limit goes back to
WAITING with its veto count risen; at the sixteenth veto it is dropped, and the mark source places a MARK again. -/
def Obligations.VetoedFrameRetriesOrDrops : Prop :=
  ∀ s : State,
    (∀ g n b, s.framing = true → receive g = .whole n b →
      exec (.frameVetoed (.heard g)) s = .next (s.setRli { s.rli with
        framesVetoed := s.rli.framesVetoed + 1, vetoRun := 0 }))
    ∧ (∀ src q f, s.receiving = true → s.sendingSource = some src → s.slot src = .sending q f false →
      (q.veto < 15 → s.Quiet src q → exec (.frameVetoed .own) s = .next ((s.setRli { s.rli with
        framesVetoed := s.rli.framesVetoed + 1, vetoRun := 0, collisions := 0 }).setSlot src
          (.waiting { q with veto := q.veto + 1 })))
      ∧ (q.veto = 15 → ∃ t, exec (.frameVetoed .own) s = .next t ∧ t.isPending .lineFault = true
        ∧ t.rli.framesVetoed = s.rli.framesVetoed + 1 ∧ t.rli.vetoRun = 0 ∧ t.rli.collisions = 0
        ∧ (t.slot src).isSending = false ∧ (src = .order → t.slot .order = .empty ∧ t.night.relay = none)
        ∧ (src = .mark → t.slot .mark = fresh s.markBody)
        ∧ t.replica = s.replica))

/-- R19: STUCK_LINE sets the condition, raises LINE_STUCK and clears the collision count, once for each condition;
STUCK_LINE_CLEAR clears it. A frame found SENDING goes back to WAITING (log 22). -/
def Obligations.StuckLineSetAndCleared : Prop :=
  ∀ s : State,
    (s.receiving = true → s.sendingSource = none → ∃ t, exec .stuckLine s = .next t ∧ t.isPending .lineStuck = true
      ∧ t.rli = { s.rli with stuck := true, collisions := 0 } ∧ Kept s t ∧ t.member = s.member ∧ t.seq = s.seq)
    ∧ (∀ src q f, s.receiving = true → s.sendingSource = some src → s.slot src = .sending q f false →
      s.Quiet src q → ∃ t, exec .stuckLine s = .next t ∧ t.slot src = .waiting q ∧ t.rli.stuck = true
        ∧ t.rli.collisions = 0 ∧ t.isPending .lineStuck = true ∧ Kept s t)
    ∧ (s.rli.stuck = true → exec .stuckLine s = .next s)
    ∧ exec .stuckLineClear s = .next (s.setRli { s.rli with stuck := false })

/-! ## The order input line (chapter 4) -/

/-- R71, R73, R75, R76: a message is judged by the tests in order; a rejection changes the order status and the
receiver's buffer alone; an accepted one is relayed as a fresh ORDER or NIGHT frame. Bytes that no silence went before
are no message, and the silence that ends them is the first the receiver sees (log 31). In LOADING and UNCONFIGURED
the receiver is idle. -/
def Obligations.OrderMessageCheckedAndRelayed : Prop :=
  (∀ (s : State) (line : LineBytes), s.member.state = .loading ∨ s.member.state = .unconfigured →
    exec (.orderMessage line) s = .next s)
  ∧ ∀ (s : State) (m : List Byte) (id : Word16) (n : NightRecord) (act start deadline : Nat) (reason : RejectReason),
    s.orderReceiving = true → m ≠ [] → id = be16 (byteAt m 4) (byteAt m 5) → n = s.replica.night →
    act = (byteAt m 6).toNat → start = (be16 (byteAt m 11) (byteAt m 12)).toNat →
    deadline = (be16 (byteAt m 13) (byteAt m 14)).toNat →
    reason = (if m.length < 2 ∨ byteAt m 0 ≠ 0xB5 ∨ byteAt m 1 ≠ 0x4E then .badSync
      else if m.length ≠ 21 then .badLength
      else if crc ((m.drop 2).take 17) ≠ be16 (byteAt m 19) (byteAt m 20) then .badCheck
      else if be16 (byteAt m 2) (byteAt m 3) ≠ s.cfg.rowTag then .wrongRow
      else if s.member.state ≠ .inSync then .notSynced
      else if act = 0 ∨ 4 < act then .badAction
      else if act = 1 ∧ newer id n.id = false then .notNewer
      else if act = 1 ∧ n.state ≠ .idle ∧ n.state ≠ .ended then .nightActive
      else if act = 1 ∧ (720 < start ∨ deadline = 0 ∨ 900 < deadline ∨ deadline ≤ start ∨ 120 < (byteAt m 15).toNat)
        then .range
      else if act ≠ 1 ∧ id ≠ n.id then .wrongId
      else if (act = 2 ∧ n.state ≠ .pending ∧ n.state ≠ .running) ∨ (act = 3 ∧ n.state ≠ .held)
        ∨ (act = 4 ∧ (n.state = .idle ∨ n.state = .ended)) then .wrongState
      else if s.slot .order ≠ .empty then .busy
      else .none) →
    (reason ≠ .none → exec (.orderMessage ⟨true, m⟩) s = .next (s.setNight { s.night with
      awaitsSilence := false, rxBytes := m.take 21, rxCount := m.length
      rejected := s.night.rejected + 1, lastReason := reason
      lastId := if reason = .badSync ∨ reason = .badLength ∨ reason = .badCheck then s.night.lastId else id }))
    ∧ (reason = .none → ∃ t, exec (.orderMessage ⟨true, m⟩) s = .next t
      ∧ t.slot .order = fresh (if act = 1 then
            .order id (be32 (byteAt m 7) (byteAt m 8) (byteAt m 9) (byteAt m 10)) (be16 (byteAt m 11) (byteAt m 12))
              (be16 (byteAt m 13) (byteAt m 14)) (byteAt m 15) (byteAt m 16) (byteAt m 17) (byteAt m 18)
          else if act = 2 then .night id 2 n.state.code 3
          else if act = 3 then .night id 3 3 n.heldFrom.state.code
          else .night id 4 n.state.code 5)
      ∧ t.night.accepted = s.night.accepted + 1 ∧ t.night.rejected = s.night.rejected
      ∧ t.night.lastReason = s.night.lastReason ∧ t.night.lastId = id ∧ t.night.rxBytes = m
      ∧ t.night.awaitsSilence = false
      ∧ (∀ src, src ≠ .order → t.slot src = s.slot src) ∧ Kept s t ∧ t.link = s.link ∧ t.member = s.member
      ∧ t.claim = s.claim ∧ t.gate = s.gate ∧ t.seq = s.seq)
    ∧ exec (.orderMessage ⟨false, m⟩) s = .next (s.setNight { s.night with awaitsSilence := false })

/-- R84, R85: a count that expires stops; it sets its flag where the night allows the flag's step, and an IN_SYNC
station with its night slot EMPTY places that step, but for the start step of a HELD night. Where the night does not
allow the step only the count stops. -/
def Obligations.NightCountExpirySetsFlagAndStep : Prop :=
  ∀ s : State,
    (s.night.deadline.isRunning = true → s.InSync → s.slot .night = .empty →
      s.replica.night.state = .pending ∨ s.replica.night.state = .running ∨ s.replica.night.state = .held →
      ∃ t, exec (.nightCountExpiry .deadline) s = .next t ∧ t.night.deadline = .stopped
        ∧ t.night.deadlineDue = true ∧ t.slot .night = fresh (.night s.replica.night.id 1 s.replica.night.state.code 4)
        ∧ t.replica = s.replica)
    ∧ (s.night.start.isRunning = true → s.InSync → s.slot .night = .empty → s.night.deadlineDue = false →
      s.replica.night.state = .pending →
      ∃ t, exec (.nightCountExpiry .start) s = .next t ∧ t.night.start = .stopped ∧ t.night.startDue = true
        ∧ t.slot .night = fresh (.night s.replica.night.id 1 1 2)
        ∧ t.replica = s.replica)
    ∧ (s.night.grace.isRunning = true → s.InSync → s.slot .night = .empty → s.replica.night.state = .closing →
      ∃ t, exec (.nightCountExpiry .grace) s = .next t ∧ t.night.grace = .stopped ∧ t.night.graceDue = true
        ∧ t.slot .night = fresh (.night s.replica.night.id 1 4 5)
        ∧ t.replica = s.replica)
    ∧ (s.member.state ≠ .inSync →
      (s.night.deadline.isRunning = true →
        s.replica.night.state = .pending ∨ s.replica.night.state = .running ∨ s.replica.night.state = .held →
        exec (.nightCountExpiry .deadline) s = .next (s.setNight { s.night with
          deadline := .stopped, deadlineDue := true }))
      ∧ (s.night.start.isRunning = true → s.replica.night.state = .pending →
        exec (.nightCountExpiry .start) s = .next (s.setNight { s.night with start := .stopped, startDue := true }))
      ∧ (s.night.grace.isRunning = true → s.replica.night.state = .closing →
        exec (.nightCountExpiry .grace) s = .next (s.setNight { s.night with grace := .stopped, graceDue := true })))
    ∧ (s.night.start.isRunning = true → s.replica.night.state = .held → s.replica.night.heldFrom = .pending →
      s.member.state ≠ .inSync ∨ (s.slot .night = .empty ∧ s.night.deadlineDue = false) →
      exec (.nightCountExpiry .start) s = .next (s.setNight { s.night with start := .stopped, startDue := true }))
    ∧ (s.member.state ≠ .inSync ∨ (s.slot .night = .empty ∧ s.night.startDue = false ∧ s.night.deadlineDue = false
        ∧ s.night.graceDue = false) →
      (s.night.start.isRunning = true → s.replica.night.state ≠ .pending →
        ¬ (s.replica.night.state = .held ∧ s.replica.night.heldFrom = .pending) →
        exec (.nightCountExpiry .start) s = .next (s.setNight { s.night with start := .stopped }))
      ∧ (s.night.deadline.isRunning = true → s.replica.night.state ≠ .pending → s.replica.night.state ≠ .running →
        s.replica.night.state ≠ .held →
        exec (.nightCountExpiry .deadline) s = .next (s.setNight { s.night with deadline := .stopped }))
      ∧ (s.night.grace.isRunning = true → s.replica.night.state ≠ .closing →
        exec (.nightCountExpiry .grace) s = .next (s.setNight { s.night with grace := .stopped })))

/-! ## Membership timers (chapter 3) -/

/-- R50, R51, R60, R64, R67: the ask wait expires: the station founds the row where only asks were heard; otherwise it
asks again, or at the fourth ask is ISOLATED without DUPLICATE_NUMBER. The joiner's gap expires: runs and buffer are
discarded and the same decision is made; a station left JOINING awaits the next run of that series (R60, log 37). -/
def Obligations.AskAndGapTimersDecide : Prop :=
  ∀ s : State,
    (s.member.askWait.isRunning = true → s.member.state = .joining →
      (s.member.onlyAsks = true → ∃ t, exec .askWaitExpiry s = .next t ∧ t.member.state = .inSync
        ∧ t.replica = s.replica ∧ t.member.installAnswerer = 0 ∧ t.member.installAsker = 0 ∧ t.member.askCount = 0
        ∧ t.rli.vetoRun = 0 ∧ t.rli.permission = .granted ∧ t.member.watch = none ∧ t.member.askWait = .stopped
        ∧ t.claim.watching = true)
      ∧ (s.member.onlyAsks = false → s.member.askCount < 4 → ∃ t, exec .askWaitExpiry s = .next t
        ∧ t.member.state = .joining ∧ t.member.askCount = s.member.askCount ∧ t.member.askWait = .stopped
        ∧ (s.slot .ask = .empty → t.slot .ask = fresh .ask)
        ∧ t.replica = s.replica ∧ t.link = s.link)
      ∧ (s.member.onlyAsks = false → 4 ≤ s.member.askCount → ∃ t, exec .askWaitExpiry s = .next t
        ∧ t.member.state = .isolated ∧ t.isPending .isolated = true
        ∧ t.isPending .duplicateNumber = s.isPending .duplicateNumber ∧ t.member.cooldown = .running 600000
        ∧ t.replica = s.replica))
    ∧ (s.member.seriesGap.isRunning = true → s.member.state = .collecting →
      ∃ t, exec .seriesGapExpiry s = .next t ∧ t.member.adopted = none ∧ t.member.buffer = []
        ∧ t.member.seriesGap = .stopped ∧ t.replica = s.replica
        ∧ (s.member.askCount < 4 → t.member.state = .joining ∧ t.member.askCount = s.member.askCount
          ∧ (s.slot .ask = .empty → t.slot .ask = fresh .ask)
          ∧ ∀ a, s.member.adopted = some a → t.member.lateRun = .awaited a.answerer a.next)
        ∧ (4 ≤ s.member.askCount → t.member.state = .isolated ∧ t.isPending .isolated = true
          ∧ t.member.lateRun = .none))

/-- R54, R55, R57: the answerer's timers: the watch's gap answers a held ask with a run 0 for any asker, and stops a
series of this station's own; the pause's end places the next run; a whole second places a WAITING run 0 anew. -/
def Obligations.AnswererTimersPlaceRuns : Prop :=
  ∀ s : State,
    (s.member.watch ≠ none → s.member.position = 0 → s.member.askHeld = true → s.slot .series = .empty →
      ∃ t, exec .seriesWatchGapExpiry s = .next t ∧ t.member.watch = none ∧ t.member.askHeld = false
        ∧ t.member.answerPending = true ∧ t.member.asker = 0
        ∧ t.slot .series = fresh (.run 0 0 (run0Payload s.replica.night s.night))
        ∧ t.replica = s.replica)
    ∧ (s.member.watch ≠ none → s.member.position = 0 → s.member.askHeld = false →
      exec .seriesWatchGapExpiry s = .next (s.setMember { s.member with watch := none }))
    ∧ (∀ q, s.member.watch ≠ none → s.member.position ≠ 0 → s.member.askHeld = false → s.slot .series = .waiting q →
      ∃ t, exec .seriesWatchGapExpiry s = .next t ∧ t.member.watch = none ∧ t.member.position = 0
        ∧ t.member.snapshot = none ∧ t.slot .series = .empty ∧ t.replica = s.replica)
    ∧ (∀ snap, s.member.pause.isRunning = true → s.member.snapshot = some snap → s.slot .series = .empty →
      ∃ t, exec .seriesPauseEnd s = .next t ∧ t.member.pause = .stopped
        ∧ t.member.position = s.member.position + 1
        ∧ t.slot .series = fresh (.run 0 (byteOf (s.member.position + 1))
            (runPayload snap (s.member.position + 1)))
        ∧ t.replica = s.replica)
    ∧ (∀ q asker payload, s.slot .series = .waiting q → q.body = .run asker 0 payload →
      ∃ t, exec .run0SecondTick s = .next t
        ∧ t.slot .series = fresh (.run (byteOf s.member.asker) 0 (run0Payload s.replica.night s.night))
        ∧ (∀ src, src ≠ .series → t.slot src = s.slot src) ∧ t.member = s.member ∧ t.replica = s.replica)

/-- R68 to R70, R172: rejoin, on the REJOIN command or at the end of the isolated cooldown; an UNCONFIGURED station
refuses the command, and one after a command in the same write transaction is acknowledged and ignored (R155). -/
def Obligations.RejoinStartsMembershipAgain : Prop :=
  ∀ (s : State) (argument : Byte),
    (s.takesWrite .command = true → s.link.commandDone = false → s.member.state ≠ .unconfigured →
      ∃ t, exec (.rejoin argument) s = .next t ∧ Rejoined s t ∧ t.link.lastCode = 0x01 ∧ t.link.lastStatus = .done
      ∧ t.link.busAck = true ∧ t.link.writing = true ∧ t.link.commandDone = true
      ∧ t.link.view = s.link.view ∧ t.link.index = s.link.index ∧ t.link.capture = s.link.capture
      ∧ t.link.report = s.link.report)
    ∧ (s.takesWrite .command = true → s.link.commandDone = false → s.member.state = .unconfigured →
      exec (.rejoin argument) s = .next (s.setLink { s.link with
        commandDone := true, lastCode := 0x01, lastStatus := .refused, busByte := none, busAck := true }))
    ∧ (s.takesWrite .command = true → s.link.commandDone = true →
      exec (.rejoin argument) s = .next (s.setLink { s.link with busByte := none, busAck := true }))
    ∧ (s.member.cooldown.isRunning = true → s.member.state = .isolated →
      ∃ t, exec .isolatedCooldownExpiry s = .next t ∧ Rejoined s t ∧ t.link = s.link)

/-! ## The Claim Engine and the Gate and Mark Unit (chapters 5 and 6) -/

/-- R93, R95, R97: a re-reading with the claim slot EMPTY takes the first line of the table that holds. That line 1
takes a hold that a second station with this number was granted, too, is the model's choice (log 42). -/
def Obligations.RereadingFollowsTheTable : Prop :=
  ∀ (s : State) (r : Request) (x : PoolRecord) (free : Int), s.InSync → s.claim.request = some r →
    r.state ≠ .granted → s.slot .claim = .empty → x = s.replica.pools.get r.pool →
    free = (x.capacity : Int) - x.inUse
      - (if x.reserver ≠ 0 ∧ x.reserver ≠ s.cfg.station then (x.reserved : Int) else 0) →
    (s.shownHold r.pool ≠ 0 → (reread s).2 = true
      ∧ (reread s).1.claim.request = some { r with state := .granted, patience := 0 }
      ∧ (reread s).1.claim.ownHolds.get r.pool = s.shownHold r.pool ∧ (reread s).1.slot .claim = .empty)
    ∧ (s.shownHold r.pool = 0 → s.replica.night.state = .running ∨ r.restore = true → (r.units : Int) ≤ free →
      (reread s).1.claim.request = some { r with state := .ready }
      ∧ (reread s).1.claim.claimAge = .running 10000
      ∧ (reread s).1.slot .claim =
          fresh (.claim r.pool.code (byteOf r.units) x.generation (if r.restore then 1 else 0)))
    ∧ (s.shownHold r.pool = 0 → s.replica.night.state = .running → free < r.units → 12 ≤ r.patience →
        x.reserver = 0 →
      (reread s).1.claim.request = some { r with state := .reserving }
      ∧ (reread s).1.slot .claim = fresh (.park r.pool.code (byteOf r.units)))
    ∧ (s.shownHold r.pool = 0 →
        (s.replica.night.state ≠ .running ∧ (r.restore = false ∨ free < r.units))
          ∨ (s.replica.night.state = .running ∧ free < r.units ∧ (r.patience < 12 ∨ x.reserver ≠ 0)) →
      (reread s).2 = false ∧ (reread s).1 = s.setClaim { s.claim with request := some { r with state := .parked } })

/-- R35, R97, R107, R109, R125: the claim age expires: a WAITING CLAIM is withdrawn and, where the pool still has
room, one on the generation that now stands is placed, with patience unchanged; a SENDING one waits for the end of its
attempt. The keep timer's expiry places a MARK of the current values and restarts. At a last-heard second the ages
furthest into a second pass it, the others keep their whole seconds (log 4), and a running watch places a RECLAIM for
the lowest-numbered overdue peer. -/
def Obligations.ClaimKeepAndSilenceTimers : Prop :=
  ∀ s : State,
    (∀ q r, s.claim.claimAge.isRunning = true → s.slot .claim = .waiting q → s.InSync → s.claim.request = some r →
      r.state = .ready → s.claim.unparkDue = PerPool.all false → s.shownHold r.pool = 0 →
      s.replica.night.state = .running → (r.units : Int) ≤ s.freeUnits r.pool →
      ∃ t, exec .claimAgeExpiry s = .next t ∧ t.claim.request = some r ∧ t.claim.claimAge = .running 10000
        ∧ t.slot .claim = fresh (.claim r.pool.code (byteOf r.units)
            (s.replica.pools.get r.pool).generation (if r.restore then 1 else 0))
        ∧ (∀ src, src ≠ .claim → t.slot src = s.slot src) ∧ t.replica = s.replica)
    ∧ (∀ q f c, s.claim.claimAge.isRunning = true → s.slot .claim = .sending q f c →
      exec .claimAgeExpiry s = .next (s.setClaim { s.claim with claimAge := .stopped, ageExpired := true }))
    ∧ (s.claim.keep.isRunning = true → s.member.state ≠ .loading → s.member.state ≠ .unconfigured →
      s.slot .mark = .empty → ∃ t, exec .keepTimerExpiry s = .next t ∧ t.claim.keep = .running 30000
        ∧ t.slot .mark = fresh s.markBody
        ∧ (∀ src, src ≠ .mark → t.slot src = s.slot src) ∧ t.gate = s.gate ∧ t.replica = s.replica)
    ∧ (s.loader.state ≠ .reading → s.claim.watching = false → exec .lastHeardTick s = .next
      (s.setLastHeard (passSecond s.lastHeard)))
    ∧ (∀ n, s.lastHeard.length = 40 → (∀ a ∈ s.lastHeard, a ≤ 65535000) → 1 ≤ n → n ≤ 40 →
      ((∀ m, heardMs s.lastHeard m % 1000 ≤ heardMs s.lastHeard n % 1000) →
        heardAge (passSecond s.lastHeard) n = min (heardAge s.lastHeard n + 1) 65535)
      ∧ ((∃ m, heardMs s.lastHeard n % 1000 < heardMs s.lastHeard m % 1000) →
        heardAge (passSecond s.lastHeard) n = heardAge s.lastHeard n))
    ∧ (∀ overdue : Nat → Prop, s.loader.state ≠ .reading → s.claim.watching = true → s.InSync →
      s.slot .reclaim = .empty →
      (∀ n, overdue n ↔ 1 ≤ n ∧ n ≤ 40 ∧ n ≠ s.cfg.station ∧ 100 ≤ heardAge (passSecond s.lastHeard) n
        ∧ ((∃ p, (s.replica.entry n).holds.get p ≠ 0) ∨ ∃ p, (s.replica.pools.get p).reserver = n)) →
      (∀ m, overdue m → (∀ n, overdue n → m ≤ n) → ∃ t, exec .lastHeardTick s = .next t
        ∧ t.slot .reclaim = fresh (.reclaim (byteOf m) (s.replica.entry m).heard)
        ∧ t.lastHeard = passSecond s.lastHeard ∧ t.replica = s.replica)
      ∧ ((∀ n, ¬ overdue n) → exec .lastHeardTick s = .next
        (s.setLastHeard (passSecond s.lastHeard))))

/-- R116 to R120: when an evaluation opens the gate, over the leads of the block that are used; and gate patience
expires: it is elapsed for its night, the gate opens where the leads' classes then allow it, and nothing else changes
outside GATED. -/
def Obligations.GateOpensOnItsCondition : Prop :=
  (∀ s : State, s.gateOpens = true ↔
    s.InSync ∧ s.seq.state = .gated ∧ s.gate.isOpen = false ∧ s.replica.night.state = .running
      ∧ s.replica.night.id = s.gate.night
      ∧ ∃ (passed out : Nat → Prop),
        (∀ n, passed n ↔ (s.replica.entry n).marks.has s.cfg.awaited = true ∨ (s.replica.entry n).state = some .done)
        ∧ (∀ n, out n ↔ ¬ passed n ∧ ((s.replica.entry n).state = some .failed
            ∨ (s.replica.entry n).state = some .skipped ∨ (s.replica.entry n).state = some .localUse
            ∨ ((s.replica.entry n).presence ≠ .present ∧ s.gate.patience = .elapsed s.gate.night)))
        ∧ (s.cfg.gateMode = .free
          ∨ (s.cfg.gateMode = .afterAny ∧ ((∃ n ∈ s.cfg.leads, n ≠ 0 ∧ n ≠ s.cfg.station ∧ passed n)
              ∨ ∀ n ∈ s.cfg.leads, n ≠ 0 → n ≠ s.cfg.station → out n))
          ∨ (s.cfg.gateMode = .afterAll ∧ ∀ n ∈ s.cfg.leads, n ≠ 0 → n ≠ s.cfg.station → passed n ∨ out n)))
    ∧ ∀ (s : State) (left : Nat) (night : Word16), s.gate.patience = .running left night →
      (s.seq.state ≠ .gated → exec .gatePatienceExpiry s = .next
        (s.setGate { s.gate with patience := .elapsed night }))
      ∧ (∀ s1, s1 = s.setGate { s.gate with patience := .elapsed night } → s1.gateOpens = true →
        s.shownHold .load = 0 →
        ∃ t, exec .gatePatienceExpiry s = .next t ∧ t.gate.isOpen = true ∧ t.gate.patience = .elapsed night
          ∧ t.seq.state = .claiming ∧ t.replica = s.replica)

/-! ## The sequencer (chapter 7) -/

/-- R138: the wake pulse starts only at a station that is IN_SYNC (before the step or at its end) with the replica
showing the SURGE and LOAD costs held. -/
def Obligations.WakeOnlyWithBothCostsHeld : Prop :=
  ∀ (c : Instr) (s t : State), exec c s = .next t → s.seq.state ≠ .awaitGood → t.seq.state = .awaitGood →
    (s.InSync ∨ t.InSync) ∧ t.shownHold .surge = t.cfg.cost.surge ∧ t.shownHold .load = t.cfg.cost.load
      ∧ t.seq.wake = .running 200 ∧ t.seq.good = .running 3000 ∧ t.seq.progress = 0 ∧ t.seq.permit = true

/-- R142: within one attempt of one night the accepted progress never goes down. -/
def Obligations.ProgressNeverDecreases : Prop :=
  ∀ (c : Instr) (s t : State), AttemptLaw s → exec c s = .next t → (∀ p q r, c ≠ .coldStart p q r) →
    t.seq.night = s.seq.night → t.seq.attempt = s.seq.attempt → s.seq.progress ≤ t.seq.progress

/-- R129, R130, R137, R139: a rise of POWER_GOOD moves AWAIT_GOOD to SETTLE and takes a GATED or CLAIMING station to
LOCAL; in the other states only the level follows. A wake pulse ends and DESK_BUTTON follows the press alone.
SUPPLY_REQ deasserted gives a withdrawn permit outside COOLDOWN. That a station taken to LOCAL drops a deferred request
with its active one is the model's choice (log 38). -/
def Obligations.PowerLineEventsByState : Prop :=
  ∀ s : State,
    (s.pins.powerGood = false →
      (s.seq.state = .awaitGood → exec .powerGoodRise s = .next
        ((s.setPins { s.pins with powerGood := true }).setSeq
          { s.seq with state := .settle, good := .stopped, settle := .running 5000 }))
      ∧ (s.seq.state = .gated ∨ s.seq.state = .claiming → s.NoNewerNight →
        ∃ t, exec .powerGoodRise s = .next t ∧ WentLocal s t ∧ t.pins.powerGood = true)
      ∧ (s.seq.state ≠ .awaitGood → s.seq.state ≠ .gated → s.seq.state ≠ .claiming →
        exec .powerGoodRise s = .next (s.setPins { s.pins with powerGood := true })))
    ∧ (exec .wakePulseEnd s = .next (s.setSeq { s.seq with wake := .stopped })
      ∧ (s.setSeq { s.seq with wake := .stopped }).deskButton = (s.seq.press == .passing && s.pins.panelButton))
    ∧ (s.seq.state ≠ .cooldown → exec .supplyReqRelease s = .next
      ((s.setPins { s.pins with supplyReq := false }).setSeq { s.seq with permit := true }))
    ∧ (s.seq.state = .cooldown → exec .supplyReqRelease s = .next (s.setPins { s.pins with supplyReq := false }))

/-- R139, R141, R144, R146: the good limit, the contact timer, the progress timer and a fall of POWER_GOOD fail the
attempt with their causes. That a request deferred behind a RESTORE request is dropped with the active one, so that
none is left, is the model's choice (log 38). -/
def Obligations.AttemptFailsWithItsCause : Prop :=
  ∀ s : State,
    (s.seq.good.isRunning = true → s.seq.state = .awaitGood →
      ∃ t, exec .goodLimitExpiry s = .next t ∧ AttemptFailed .noPowerGood s t)
    ∧ (s.seq.contactTimer.isRunning = true → s.seq.contact = false → s.seq.state = .booting →
      ∃ t, exec .contactTimerExpiry s = .next t ∧ AttemptFailed .noFirmware s t)
    ∧ (s.seq.progressTimer.isRunning = true → s.seq.state = .booting ∨ s.seq.state = .imaging →
      ∃ t, exec .progressTimerExpiry s = .next t ∧ AttemptFailed .noProgress s t)
    ∧ (s.pins.powerGood = true → s.seq.state = .settle ∨ s.seq.state = .booting ∨ s.seq.state = .imaging →
      ∃ t, exec .powerGoodFall s = .next t ∧ AttemptFailed .powerLost s t ∧ t.pins.powerGood = false)
    ∧ (s.pins.powerGood = true → s.seq.state = .standby ∨ s.seq.state = .gated ∨ s.seq.state = .claiming
        ∨ s.seq.state = .awaitGood ∨ s.seq.state = .cooldown ∨ s.seq.state.terminal = true →
      exec .powerGoodFall s = .next (s.setPins { s.pins with powerGood := false }))

/-- R139, R140: the settle timer expires: SURGE's release is asked for, SURGE_END joins the emitted marks, and BOOTING
is entered with its contact timer and FEED request, or FINISHING by the standing. -/
def Obligations.SettleExpiryEntersBooting : Prop :=
  ∀ s : State, s.seq.settle.isRunning = true → s.seq.state = .settle →
    (s.seq.standing = .running ∨ s.seq.standing = .held → s.restoring = false →
      ∃ t r, exec .settleExpiry s = .next t ∧ t.seq.state = .booting ∧ t.seq.settle = .stopped
        ∧ (s.seq.contact = false → t.seq.contactTimer = .running 240000)
        ∧ t.claim.request = some r ∧ r.pool = .feed ∧ r.units = s.cfg.cost.feed ∧ r.restore = false
        ∧ (s.gate.emittedNight ≠ 0 → t.gate.emitted.has .surgeEnd = true ∧ t.gate.newest = some .surgeEnd)
        ∧ (s.InSync → s.slot .release = .empty → s.claim.ownHolds.surge ≠ 0 →
          t.slot .release = fresh (.release (byteOf s.claim.ownHolds.surge) 0 0))
        ∧ t.replica = s.replica)
    ∧ (s.pins.powerGood = true → s.seq.standing = .closing ∨ s.seq.standing = .ended ∨ s.seq.standing = .aborted →
      ∃ t, exec .settleExpiry s = .next t ∧ t.seq.state = .finishing ∧ t.seq.shutdown = .running 180000
        ∧ t.seq.finish = (if s.seq.standing = .aborted then .aborted else .closedOut) ∧ t.replica = s.replica)

/-- R145: FINISHING ends in DONE when POWER_GOOD falls, and when the shutdown timer expires, which also withdraws the
permit and records NO_SHUTDOWN. -/
def Obligations.FinishingEndsInDone : Prop :=
  ∀ s : State, s.seq.state = .finishing → s.NoNewerNight →
    (s.seq.shutdown.isRunning = true →
      ∃ t, exec .shutdownTimerExpiry s = .next t ∧ t.seq.state = .done ∧ t.seq.permit = false
        ∧ t.seq.outcome.noShutdown = true ∧ t.seq.outcome.outcome = s.seq.finish.outcome
        ∧ t.seq.outcome.finalProgress = s.seq.progress ∧ t.seq.shutdown = .stopped
        ∧ (s.member.state ≠ .inSync → s.claim.ownHolds.load ≠ 0 → t.claim.owed.load = true)
        ∧ (s.restoring = false → t.claim.ownHolds = s.claim.ownHolds) ∧ t.replica = s.replica)
    ∧ (s.pins.powerGood = true →
      ∃ t, exec .powerGoodFall s = .next t ∧ t.seq.state = .done ∧ t.seq.shutdown = .stopped
        ∧ t.seq.outcome.outcome = s.seq.finish.outcome ∧ t.seq.outcome.finalProgress = s.seq.progress
        ∧ t.seq.outcome.noShutdown = s.seq.outcome.noShutdown
        ∧ (s.seq.outcome.outcome = .unset → t.isPending .outcomeReady = true)
        ∧ t.seq.permit = s.seq.permit ∧ t.pins.powerGood = false ∧ t.replica = s.replica)

/-- R130, R147: cooldown ends: FAILED past the retry limit, otherwise by the standing; SUPPLY_REQ found deasserted
gives the permit. -/
def Obligations.CooldownExpiryDecides : Prop :=
  ∀ (s : State) (supplyReq : Bool), s.seq.cooldown.isRunning = true → s.seq.state = .cooldown → s.NoNewerNight →
    (s.cfg.retryLimit < s.seq.outcome.used → ∃ t, exec (.cooldownExpiry supplyReq) s = .next t
      ∧ t.seq.state = .failed ∧ t.seq.outcome.outcome = .failed ∧ t.seq.permit = (s.seq.permit || !supplyReq)
      ∧ (s.gate.emittedNight ≠ 0 → t.gate.emitted.has .failed = true) ∧ t.replica = s.replica)
    ∧ (s.seq.outcome.used ≤ s.cfg.retryLimit →
      (s.seq.standing = .running → s.shownHold .load = 0 → ∃ t, exec (.cooldownExpiry supplyReq) s = .next t
        ∧ t.seq.state = .claiming ∧ t.seq.outcome = s.seq.outcome
        ∧ t.seq.permit = (s.seq.permit || !supplyReq) ∧ t.replica = s.replica)
      ∧ (s.seq.standing = .held → s.replica.night.state ≠ .running → ∃ t,
        exec (.cooldownExpiry supplyReq) s = .next t ∧ t.seq.state = .gated ∧ t.replica = s.replica)
      ∧ (s.seq.standing = .closing ∨ s.seq.standing = .ended ∨ s.seq.standing = .aborted → ∃ t,
        exec (.cooldownExpiry supplyReq) s = .next t ∧ t.seq.state = .skipped
        ∧ t.seq.outcome.outcome = (if s.seq.standing = .aborted then .aborted else .closedOut)
        ∧ t.seq.outcome.skip = none ∧ t.replica = s.replica))

/-- R151, R152: a press passes through, or takes the station to LOCAL, or is held, by the state at its beginning; a
held press that ends is swallowed, and one whose timer expires is a long press: it passes through and takes the
station to LOCAL. That a station taken to LOCAL drops a request deferred behind a RESTORE request with the active one is
the model's choice (log 38). -/
def Obligations.PressByState : Prop :=
  ∀ s : State,
    (s.pins.panelButton = false → s.seq.state = .standby ∨ s.seq.state.terminal = true → ∃ t,
      exec .pressBegin s = .next t ∧ t.deskButton = true
      ∧ t = (s.setPins { s.pins with panelButton := true }).setSeq { s.seq with press := .passing, permit := true })
    ∧ (s.pins.panelButton = false → s.seq.state = .gated ∨ s.seq.state = .claiming → s.NoNewerNight → ∃ t,
      exec .pressBegin s = .next t ∧ WentLocal s t ∧ t.deskButton = true ∧ t.seq.permit = true)
    ∧ (s.pins.panelButton = false → s.seq.state.canFail = true ∨ s.seq.state = .finishing ∨ s.seq.state = .cooldown →
      exec .pressBegin s = .next ((s.setPins { s.pins with panelButton := true }).setSeq
        { s.seq with press := .held, pressTimer := .running 4000 }))
    ∧ (s.pins.panelButton = true → exec .pressEnd s = .next ((s.setPins { s.pins with panelButton := false }).setSeq
        { s.seq with
          press := .none, pressTimer := .stopped
          swallowed := if s.seq.press = .held then min (s.seq.swallowed + 1) 255 else s.seq.swallowed }))
    ∧ (s.seq.pressTimer.isRunning = true → s.pins.panelButton = true →
      s.seq.state.canFail = true ∨ s.seq.state = .finishing ∨ s.seq.state = .cooldown → s.NoNewerNight →
      ∃ t, exec .pressTimerExpiry s = .next t ∧ WentLocal s t ∧ t.deskButton = true ∧ t.seq.permit = true
        ∧ t.seq.pressTimer = .stopped ∧ t.seq.good = .stopped ∧ t.seq.settle = .stopped
        ∧ t.seq.contactTimer = .stopped ∧ t.seq.progressTimer = .stopped ∧ t.seq.shutdown = .stopped
        ∧ t.seq.cooldown = .stopped)

/-- R133, R135, R148: an idle station takes up its night where a delivered start step makes it RUNNING, by the first
line of the table, and skips it at a step into CLOSING or an ABORT; a GATED station that has used no attempt skips at
the step into CLOSING, with the reason CLOSED. That no deferred request outlives the cancelled one there is the
model's choice (log 38). -/
def Obligations.NightTakenUpOrSkipped : Prop :=
  ∀ (s : State) (g : List Group) (n : Nat) (id : Word16) (f : NightState), s.framing = true → s.InSync →
    id = s.replica.night.id → f = s.replica.night.state →
    (s.seq.state = .standby ∨ (s.seq.state.terminal = true ∧ newer id s.seq.night = true) →
      (receive g = .whole n (.night id 1 1 2) → f = .pending → ∃ t, exec (.frameDelivered (.heard g)) s = .next t
        ∧ t.replica.night.state = .running ∧ t.seq.night = id ∧ t.seq.image = s.replica.night.image
        ∧ t.seq.newerNight = false ∧ t.seq.progress = 0 ∧ t.seq.swallowed = 0 ∧ t.seq.standing = .running
        ∧ t.seq.outcome.night = id ∧ t.seq.outcome.causes = [] ∧ t.seq.outcome.late = false
        ∧ (s.cfg.participates = false → t.seq.state = .skipped ∧ t.seq.outcome.outcome = .skipped
          ∧ t.seq.outcome.skip = some .notParticipating ∧ t.seq.attempt = 0 ∧ t.isPending .outcomeReady = true)
        ∧ (s.cfg.participates = true → (∃ p, (s.replica.pools.get p).capacity < s.cfg.cost.get p) →
          t.seq.state = .skipped ∧ t.seq.outcome.outcome = .skipped ∧ t.seq.outcome.skip = some .costExceeds
          ∧ t.seq.attempt = 0 ∧ t.isPending .outcomeReady = true)
        ∧ (s.cfg.participates = true → (∀ p, s.cfg.cost.get p ≤ (s.replica.pools.get p).capacity) →
          (s.pins.powerGood = true → t.seq.state = .localUse ∧ t.seq.outcome.outcome = .localUse
            ∧ t.seq.outcome.skip = none ∧ t.seq.attempt = 0 ∧ t.isPending .outcomeReady = true)
          ∧ (s.pins.powerGood = false → s.shownHold .load = 0 → 1 ≤ s.cfg.cost.load →
            (t.seq.state = .gated ∨ t.seq.state = .claiming) ∧ t.seq.outcome = OutcomeRecord.fresh id
            ∧ t.seq.attempt = 0)))
      ∧ (receive g = .whole n (.night id 1 f.code 4) → f = .pending ∨ f = .running ∨ f = .held →
        ∃ t, exec (.frameDelivered (.heard g)) s = .next t ∧ t.replica.night.state = .closing
          ∧ t.seq.state = .skipped ∧ t.seq.night = id ∧ t.seq.attempt = 0 ∧ t.seq.outcome.night = id
          ∧ t.seq.outcome.outcome = .skipped
          ∧ t.seq.outcome.skip = some (if s.cfg.participates then .closed else .notParticipating))
      ∧ (receive g = .whole n (.night id 4 f.code 5) →
        f = .pending ∨ f = .running ∨ f = .held ∨ f = .closing →
        ∃ t, exec (.frameDelivered (.heard g)) s = .next t ∧ t.replica.night.state = .ended
          ∧ t.replica.night.aborted = true ∧ t.seq.state = .skipped ∧ t.seq.night = id ∧ t.seq.attempt = 0
          ∧ t.seq.outcome.night = id ∧ t.seq.outcome.outcome = .skipped
          ∧ t.seq.outcome.skip = some (if s.cfg.participates then .aborted else .notParticipating)))
    ∧ (receive g = .whole n (.night id 1 f.code 4) → f = .pending ∨ f = .running ∨ f = .held →
      s.seq.state = .gated → s.seq.night = id → s.seq.standing = .running ∨ s.seq.standing = .held →
      s.seq.outcome.used = 0 →
      ∃ t, exec (.frameDelivered (.heard g)) s = .next t ∧ t.replica.night.state = .closing
        ∧ t.seq.state = .skipped ∧ t.seq.outcome.outcome = .skipped ∧ t.seq.outcome.skip = some .closed
        ∧ t.seq.standing = .closing ∧ t.claim.request = none)

/-- R136: a station FINISHING its night sees the start step of a newer one and sets the newer-night flag; where it then
reaches DONE it takes up the newer night while that is under way, skips it with BUSY_PREVIOUS where it has closed or
ended with the flag set, and stays DONE for the old night otherwise. -/
def Obligations.NewerNightAtATerminalState : Prop :=
  ∀ s : State, s.InSync → s.seq.state = .finishing → newer s.replica.night.id s.seq.night = true →
    (∀ g n, s.framing = true → receive g = .whole n (.night s.replica.night.id 1 1 2) →
      s.replica.night.state = .pending →
      ∃ t, exec (.frameDelivered (.heard g)) s = .next t ∧ t.seq.newerNight = true ∧ t.seq.state = .finishing
        ∧ t.seq.night = s.seq.night)
    ∧ (s.pins.powerGood = true →
      (s.replica.night.state = .running ∨ (s.replica.night.state = .held ∧ s.replica.night.heldFrom = .running) →
        ∃ t, exec .powerGoodFall s = .next t ∧ t.seq.night = s.replica.night.id
          ∧ t.seq.image = s.replica.night.image ∧ t.seq.newerNight = false
          ∧ t.seq.outcome.night = s.replica.night.id ∧ t.isPending .outcomeReady = (s.isPending .outcomeReady
            || s.seq.outcome.outcome == .unset || t.seq.state == .skipped)
          ∧ (s.cfg.participates = false → t.seq.state = .skipped ∧ t.seq.outcome.outcome = .skipped
            ∧ t.seq.outcome.skip = some .notParticipating)
          ∧ (s.cfg.participates = true → (∃ p, (s.replica.pools.get p).capacity < s.cfg.cost.get p) →
            t.seq.state = .skipped ∧ t.seq.outcome.outcome = .skipped ∧ t.seq.outcome.skip = some .costExceeds)
          ∧ (s.cfg.participates = true → (∀ p, s.cfg.cost.get p ≤ (s.replica.pools.get p).capacity) →
            s.shownHold .load = 0 → 1 ≤ s.cfg.cost.load →
            (t.seq.state = .gated ∨ t.seq.state = .claiming) ∧ t.seq.outcome = OutcomeRecord.fresh t.seq.night))
      ∧ (s.replica.night.state = .closing ∨ s.replica.night.state = .ended →
        (s.seq.newerNight = true → ∃ t, exec .powerGoodFall s = .next t ∧ t.seq.state = .skipped
          ∧ t.seq.night = s.replica.night.id ∧ t.seq.newerNight = false ∧ t.seq.outcome.night = s.replica.night.id
          ∧ t.seq.outcome.outcome = .skipped ∧ t.seq.outcome.skip = some .busyPrevious
          ∧ t.isPending .outcomeReady = true)
        ∧ (s.seq.newerNight = false → ∃ t, exec .powerGoodFall s = .next t ∧ t.seq.state = .done
          ∧ t.seq.night = s.seq.night ∧ t.seq.outcome.outcome = s.seq.finish.outcome))
      ∧ (s.replica.night.state = .pending ∨ (s.replica.night.state = .held ∧ s.replica.night.heldFrom = .pending) →
        ∃ t, exec .powerGoodFall s = .next t ∧ t.seq.state = .done ∧ t.seq.night = s.seq.night
          ∧ t.seq.newerNight = s.seq.newerNight ∧ t.seq.outcome.outcome = s.seq.finish.outcome))

/-! ## The desktop link (chapter 8) -/

/-- R155, R157 to R159: POINTER_WRITE at the port's address sets the pointer, or is not acknowledged and the rest of the
transaction is ignored; one at another address ends any transaction at the port's. Writes of VIEW, INDEX and STATION. A
byte that no write transaction with the pointer at its register carries changes no register. What the port answers on
the bus is kept as log 7 says; that a VIEW above 6 keeps the pending report is the model's choice (log 39). -/
def Obligations.PointerAndSelectorWrites : Prop :=
  ∀ (s : State) (a : BitVec 7) (b v : Byte),
    (s.answering = true → s.link.address = a.setWidth 8 →
      (∀ r, Register.ofNumber b = some r →
        exec (.pointerWrite a b) s = .next (s.setLink { s.link with
          pointer := r, writing := true, commandDone := false, busByte := none, busAck := true })
        ∧ ∀ o t, exec (.pointerWrite a b) s = .next t → (t.takesWrite o = true ↔ o = r))
      ∧ (b.toNat < 0x10 ∨ 0x16 < b.toNat → exec (.pointerWrite a b) s = .next (s.setLink { s.link with
        writing := false, busByte := none, busAck := false })))
    ∧ (s.answering = false ∨ s.link.address ≠ a.setWidth 8 → exec (.pointerWrite a b) s = .next
      (s.setLink { s.link with writing := false, busByte := none, busAck := false }))
    ∧ (s.takesWrite .view = true →
      (v.toNat ≤ 6 → exec (.viewWrite v) s = .next (s.setLink { s.link with
        view := v.toNat, index := 0, capture := none, report := [], busByte := none, busAck := true }))
      ∧ (6 < v.toNat → exec (.viewWrite v) s = .next (s.setLink { s.link with busByte := none, busAck := true })))
    ∧ (s.takesWrite .index = true → exec (.indexWrite v) s = .next (s.setLink { s.link with
      index := if v.toNat < viewLength s.link.view then v.toNat else 0
      report := [], busByte := none, busAck := true }))
    ∧ (s.takesWrite .station = true → exec (.stationWrite v) s = .next (s.setLink { s.link with
      station := if 1 ≤ v.toNat ∧ v.toNat ≤ 40 then v.toNat else s.link.station
      busByte := none, busAck := true }))
    ∧ (∀ r, s.takesWrite r = true ↔ s.loader.state ≠ .reading ∧ s.link.writing = true ∧ s.link.pointer = r)
    ∧ (∀ (r : Register) (c : Instr) (k : Byte) (i : Nat), s.takesWrite r = false →
      (r = .view ∧ c = .viewWrite v) ∨ (r = .index ∧ c = .indexWrite v) ∨ (r = .station ∧ c = .stationWrite v)
        ∨ (r = .data ∧ c = .dataWrite v) ∨ (r = .events ∧ c = .eventsWrite i v)
        ∨ (r = .eventMask ∧ c = .eventMaskWrite i v)
        ∨ (r = .command ∧ (c = .rejoin v ∨ c = .probe v ∨ c = .unknownCommand k v)) →
      exec c s = .next (s.setLink { s.link with busByte := none, busAck := false }))

/-- R141, R158, R160, R162, R163: a read of DATA at INDEX 0, or with no capture, begins a pass with a capture of the
whole view, and goes on from the capture otherwise; INDEX advances and returns to 0 past the view's last byte, where
view 5 also advances STATION. That the states of an attempt in which such a read makes contact are those of inAttempt is
the model's reading (log 27). -/
def Obligations.DataReadReturnsTheCapture : Prop :=
  ∀ (s : State) (a : BitVec 7) (bytes : List Byte), s.answering = true → s.link.address = a.setWidth 8 →
    s.link.pointer = .data →
    s.link.view ≤ 6 → s.link.index < viewLength s.link.view →
    bytes = (if s.link.index = 0 then s.viewBytes s.link.view else s.link.capture.getD (s.viewBytes s.link.view)) →
    (s.viewBytes s.link.view).length = viewLength s.link.view
    ∧ ∃ t, exec (.dataRead a) s = .next t ∧ Kept s t ∧ t.rli = s.rli ∧ t.member = s.member ∧ t.night = s.night
      ∧ t.claim = s.claim ∧ t.gate = s.gate
      ∧ t.link.busByte = some (byteAt bytes s.link.index) ∧ t.link.capture = some bytes ∧ t.link.view = s.link.view
      ∧ t.link.index = (if s.link.index + 1 < viewLength s.link.view then s.link.index + 1 else 0)
      ∧ t.link.station = (if s.link.view = 5 ∧ viewLength s.link.view ≤ s.link.index + 1 then
          (if s.link.station = 40 then 1 else s.link.station + 1) else s.link.station)
      ∧ t.link.report = (if s.link.view = 2 then [] else s.link.report)
      ∧ t.link.probePending = (if s.link.view = 0 ∧ (s.link.index = 0 ∨ s.link.capture = none) then false
          else s.link.probePending)
      ∧ t.link.events = s.link.events ∧ t.link.mask = s.link.mask ∧ t.link.eventsCopy = s.link.eventsCopy
      ∧ t.link.raisedSince = s.link.raisedSince ∧ t.link.pointer = .data ∧ t.link.writing = false
      ∧ t.link.commandDone = s.link.commandDone ∧ t.link.reportStatus = s.link.reportStatus
      ∧ t.link.lastCode = s.link.lastCode
      ∧ t.link.lastStatus = s.link.lastStatus ∧ t.link.probeEcho = s.link.probeEcho
      ∧ t.link.probeCount = s.link.probeCount ∧ t.link.address = s.link.address
      ∧ t.link.clearMode = s.link.clearMode ∧ t.link.busAck = true
      ∧ (s.link.view = 1 → s.link.index = 0 ∨ s.link.capture = none → s.seq.contact = false →
          s.seq.state.inAttempt = true → t.seq = { s.seq with
            contact := true, contactTimer := .stopped
            progressTimer := if s.seq.state = .booting ∧ s.seq.go = true then .running 600000
              else s.seq.progressTimer })
      ∧ (s.link.view ≠ 1 ∨ (s.link.index ≠ 0 ∧ s.link.capture ≠ none) ∨ s.seq.contact = true
          ∨ s.seq.state.inAttempt = false → t.seq = s.seq)

/-- R142, R163, R164: DATA_WRITE: the first two bytes of a report wait; the third hands it to the sequencer, which
refuses it by its tests in order or accepts it. -/
def Obligations.DataWriteTakesReports : Prop :=
  ∀ (s : State) (v : Byte), s.takesWrite .data = true →
    (s.link.view ≠ 2 ∨ s.link.index ≠ s.link.report.length → exec (.dataWrite v) s = .next
      (s.setLink { s.link with busByte := none, busAck := true }))
    ∧ (s.link.view = 2 → s.link.index = s.link.report.length → s.link.report.length < 2 →
      exec (.dataWrite v) s = .next (s.setLink { s.link with
        report := s.link.report ++ [v], index := s.link.index + 1, busByte := none, busAck := true }))
    ∧ (∀ h l status, s.link.view = 2 → s.link.index = 2 → s.link.report = [h, l] →
      status = (if s.seq.state ≠ .booting ∧ s.seq.state ≠ .imaging then ReportStatus.wrongState
        else if s.seq.state = .booting ∧ s.seq.go = false then .notGo
        else if 1000 < (be16 h l).toNat then .range
        else if (be16 h l).toNat < s.seq.progress then .decreasing
        else .accepted) →
      (status ≠ .accepted → ∃ t, exec (.dataWrite v) s = .next t ∧ t.link.reportStatus = status
        ∧ t.isPending .reportRefused = true ∧ t.link.report = [] ∧ t.link.index = 0 ∧ t.seq = s.seq
        ∧ t.claim = s.claim ∧ t.gate = s.gate ∧ t.rli = s.rli ∧ Kept s t)
      ∧ (status = .accepted → ∃ t, exec (.dataWrite v) s = .next t ∧ t.link.reportStatus = .accepted
        ∧ t.link.report = [] ∧ t.link.index = 0 ∧ t.replica = s.replica
        ∧ (v.getLsbD 1 = false → v.getLsbD 2 = false → t.seq.state = .imaging
          ∧ t.seq.progress = (be16 h l).toNat ∧ t.seq.progressTimer = .running 600000
          ∧ (s.seq.state = .booting → s.gate.emittedNight ≠ 0 → t.gate.emitted.has .booted = true))
        ∧ (v.getLsbD 2 = true → t.seq.state = .cooldown
          ∧ t.seq.outcome.causes = s.seq.outcome.causes ++ [.agentFailed])
        ∧ (v.getLsbD 1 = true → v.getLsbD 2 = false → s.pins.powerGood = true → t.seq.state = .finishing
          ∧ t.seq.shutdown = .running 180000 ∧ t.seq.progress = (be16 h l).toNat)))

/-- R155, R156, R170, R171, 10.8: reads of EVENTS and of the other registers the pointer can name, writes of EVENTS in
both clear modes, and writes of EVENT_MASK; bytes are counted from 0 within the transaction. A read ends any write
transaction. That DATA_READ or EVENTS_READ reports the byte of whichever register the pointer names is the model's
choice (log 36). -/
def Obligations.RegisterReadsAndEventWrites : Prop :=
  ∀ (s : State) (a : BitVec 7) (v : Byte),
    (s.answering = true → s.link.address = a.setWidth 8 →
      (s.link.pointer = .events →
        (s.link.clearMode = .readClears → ∃ t, exec (.eventsRead a 0) s = .next t
          ∧ t.link.busByte = some (hi8 s.link.events) ∧ t.link.events = s.link.events &&& 0x00FF
          ∧ t.link.eventsCopy = some s.link.events ∧ t.link.pointer = .events ∧ t.link.writing = false ∧ Kept s t
          ∧ t.seq = s.seq ∧ t.rli = s.rli)
        ∧ (∀ copy, s.link.clearMode = .readClears → s.link.eventsCopy = some copy →
          ∃ t, exec (.eventsRead a 1) s = .next t ∧ t.link.busByte = some (lo8 copy)
            ∧ t.link.events = s.link.events &&& ~~~(copy &&& 0x00FF &&& ~~~s.link.raisedSince)
            ∧ t.link.writing = false ∧ Kept s t)
        ∧ (s.link.clearMode = .writeClears → exec (.eventsRead a 0) s = .next (s.setLink { s.link with
          writing := false, busByte := some (hi8 s.link.events), busAck := true })
          ∧ exec (.eventsRead a 1) s = .next (s.setLink { s.link with
            writing := false, busByte := some (lo8 s.link.events), busAck := true }))
        ∧ (∀ i, 2 ≤ i → exec (.eventsRead a i) s = .next (s.setLink { s.link with
          writing := false, busByte := some 0xFF, busAck := true })))
      ∧ (∀ (i : Nat) (byte : Byte),
        (s.link.pointer = .view ∧ byte = BitVec.ofNat 8 s.link.view)
          ∨ (s.link.pointer = .index ∧ byte = BitVec.ofNat 8 s.link.index)
          ∨ (s.link.pointer = .station ∧ byte = BitVec.ofNat 8 s.link.station)
          ∨ (s.link.pointer = .eventMask ∧ byte = if i = 0 then 0x3F else if i = 1 then s.link.mask else 0xFF)
          ∨ (s.link.pointer = .command ∧ byte = if i = 0 then s.link.lastCode
              else if i = 1 then s.link.lastStatus.code else 0xFF) →
        exec (.eventsRead a i) s = .next (s.setLink { s.link with
          writing := false, busByte := some byte, busAck := true })))
    ∧ (s.answering = false ∨ s.link.address ≠ a.setWidth 8 →
      (∀ i, exec (.eventsRead a i) s = .next
        (s.setLink { s.link with writing := false, busByte := none, busAck := false }))
      ∧ exec (.dataRead a) s = .next (s.setLink { s.link with writing := false, busByte := none, busAck := false }))
    ∧ (∀ i, s.link.pointer = .data → exec (.eventsRead a i) s = exec (.dataRead a) s)
    ∧ (s.link.pointer ≠ .data → exec (.dataRead a) s = exec (.eventsRead a 0) s)
    ∧ (s.takesWrite .events = true →
      (s.link.clearMode = .writeClears → exec (.eventsWrite 0 v) s = .next (s.setLink { s.link with
          events := s.link.events &&& ~~~(v ++ (0 : Byte)), busByte := none, busAck := true })
        ∧ exec (.eventsWrite 1 v) s = .next (s.setLink { s.link with
          events := s.link.events &&& ~~~((0 : Byte) ++ v), busByte := none, busAck := true })
        ∧ ∀ i, 2 ≤ i → exec (.eventsWrite i v) s = .next (s.setLink { s.link with
          busByte := none, busAck := true }))
      ∧ (∀ i, s.link.clearMode = .readClears → exec (.eventsWrite i v) s = .next (s.setLink { s.link with
        busByte := none, busAck := true })))
    ∧ (s.takesWrite .eventMask = true →
      exec (.eventMaskWrite 1 v) s = .next (s.setLink { s.link with
        mask := v &&& 0x1F, busByte := none, busAck := true })
      ∧ (∀ i, i ≠ 1 → exec (.eventMaskWrite i v) s = .next (s.setLink { s.link with
        busByte := none, busAck := true })))

/-- R155, R171, R172: ATTN is asserted exactly while an error event is pending, a night event is pending and enabled,
or the probe-pending flag is set, and not during LOADING; the premise is the range of EVENTS. PROBE sets the echo,
raises the count and sets the probe-pending flag; any code but REJOIN and PROBE does nothing but give status UNKNOWN.
After a command in the same write transaction, either is acknowledged and ignored. -/
def Obligations.AttnAndProbe : Prop :=
  (∀ s : State, LinkRanges s →
    (s.attn = true ↔ s.loader.state ≠ .reading ∧
      ((∃ e, 8 ≤ e.place ∧ s.isPending e = true)
        ∨ (∃ e, e.place < 8 ∧ s.isPending e = true ∧ s.link.mask.getLsbD e.place = true)
        ∨ s.link.probePending = true)))
    ∧ ∀ (s : State) (code x : Byte), s.takesWrite .command = true →
      (s.link.commandDone = false →
        (∃ t, exec (.probe x) s = .next t ∧ t.attn = true ∧ t = s.setLink { s.link with
          commandDone := true, probeEcho := x, probeCount := s.link.probeCount + 1, probePending := true
          lastCode := 0x02, lastStatus := .done, busByte := none, busAck := true })
        ∧ (code ≠ 0x01 → code ≠ 0x02 → exec (.unknownCommand code x) s = .next (s.setLink { s.link with
          commandDone := true, lastCode := code, lastStatus := .unknown, busByte := none, busAck := true })))
      ∧ (s.link.commandDone = true → ∀ t, t = s.setLink { s.link with busByte := none, busAck := true } →
        exec (.probe x) s = .next t ∧ exec (.unknownCommand code x) s = .next t)

/-- R153, R161 to R168, 10.5, 10.9: the bytes of the seven views, each two-byte field with its high byte first. -/
def Obligations.ViewsShowTheState : Prop :=
  ∀ s : State,
    s.viewBytes 0 = [0xB0, 0x40, 0x01, BitVec.ofNat 8 s.cfg.station, hi8 s.cfg.rowTag, lo8 s.cfg.rowTag,
      s.loader.state.code, s.link.address, s.link.probeEcho, s.link.probeCount]
    ∧ (∀ action : Byte, action = (if s.seq.state = .awaitGood ∨ s.seq.state = .settle
          ∨ (s.seq.state = .booting ∧ s.seq.go = false) then 1
        else if s.seq.state = .booting ∨ s.seq.state = .imaging then 2
        else if s.seq.state = .finishing ∨ s.seq.state = .cooldown then 3 else 0) →
      s.viewBytes 1 = [hi8 s.seq.night, lo8 s.seq.night,
        s.seq.image.extractLsb' 24 8, s.seq.image.extractLsb' 16 8, s.seq.image.extractLsb' 8 8,
        s.seq.image.extractLsb' 0 8, BitVec.ofNat 8 s.cfg.station, hi8 s.cfg.rowTag, lo8 s.cfg.rowTag, action,
        if s.seq.standing = .aborted then 1 else 0, BitVec.ofNat 8 s.seq.attempt,
        BitVec.ofNat 8 s.claim.ownHolds.feed])
    ∧ (∀ p : Word16, p = BitVec.ofNat 16 s.seq.progress →
      s.viewBytes 2 = [s.link.reportStatus.code, hi8 p, lo8 p])
    ∧ (∀ (o : OutcomeRecord) (p : Word16), o = s.seq.outcome → p = BitVec.ofNat 16 o.finalProgress →
      s.viewBytes 3 = [hi8 o.night, lo8 o.night, o.outcome.code, if o.late then 1 else 0, SkipReason.code o.skip,
        BitVec.ofNat 8 o.used, BitVec.ofNat 8 o.causes.length, Cause.code o.causes[0]?, Cause.code o.causes[1]?,
        Cause.code o.causes[2]?, Cause.code o.causes[3]?, if o.noShutdown then 1 else 0, hi8 p, lo8 p,
        BitVec.ofNat 8 s.seq.swallowed])
    ∧ (∀ (n : NightRecord) (start deadline grace : Word16) (pool : Pool → List Byte) (count : Presence → Nat),
      n = s.replica.night → start = BitVec.ofNat 16 s.night.start.seconds →
      deadline = BitVec.ofNat 16 s.night.deadline.seconds → grace = BitVec.ofNat 16 s.night.grace.seconds →
      (∀ p x, x = s.replica.pools.get p → pool p = [BitVec.ofNat 8 x.capacity, BitVec.ofNat 8 x.inUse,
        hi8 x.generation, lo8 x.generation, BitVec.ofNat 8 x.reserver, BitVec.ofNat 8 x.reserved]) →
      (∀ p, count p = s.replica.roster.countP fun e => e.presence == p) →
      s.viewBytes 4 = [s.member.state.code, BitVec.ofNat 8 s.member.installAnswerer,
          BitVec.ofNat 8 s.member.installAsker, hi8 n.id, lo8 n.id, n.state.code, n.heldFrom.state.code,
          if n.aborted then 1 else 0, BitVec.ofNat 8 n.relayer, BitVec.ofNat 8 n.capacities.surge,
          BitVec.ofNat 8 n.capacities.load, BitVec.ofNat 8 n.capacities.feed, hi8 start, lo8 start, hi8 deadline,
          lo8 deadline, hi8 grace, lo8 grace,
          BitVec.ofNat 8 ((if s.night.startDue then 1 else 0) + (if s.night.deadlineDue then 2 else 0)
            + (if s.night.graceDue then 4 else 0))]
        ++ pool .surge ++ pool .load ++ pool .feed
        ++ [BitVec.ofNat 8 (count .present), BitVec.ofNat 8 (count .silent), BitVec.ofNat 8 (count .unknown),
          if s.gate.isOpen then 1 else 0, BitVec.ofNat 8 s.claim.ownHolds.surge,
          BitVec.ofNat 8 s.claim.ownHolds.load, BitVec.ofNat 8 s.claim.ownHolds.feed,
          hi8 s.rli.framesDelivered, lo8 s.rli.framesDelivered, hi8 s.rli.framesVetoed, lo8 s.rli.framesVetoed,
          hi8 s.rli.arbLosses, lo8 s.rli.arbLosses, hi8 s.rli.rxErrors, lo8 s.rli.rxErrors])
    ∧ (∀ (e : Entry) (p age : Word16), e = s.replica.entry s.link.station → p = BitVec.ofNat 16 e.progress →
      age = BitVec.ofNat 16 (heardAge s.lastHeard s.link.station) →
      s.viewBytes 5 = [BitVec.ofNat 8 s.link.station, e.presence.code,
        match e.state with
          | none => 0
          | some st => st.code,
        e.marks, hi8 p, lo8 p, BitVec.ofNat 8 e.attempt, e.heard, BitVec.ofNat 8 e.holds.surge,
        BitVec.ofNat 8 e.holds.load, BitVec.ofNat 8 e.holds.feed, hi8 age, lo8 age])
    ∧ s.viewBytes 6 = [hi8 s.night.accepted, lo8 s.night.accepted, hi8 s.night.rejected, lo8 s.night.rejected,
      s.night.lastReason.code, hi8 s.night.lastId, lo8 s.night.lastId]
end

