-- ==== Sys2Proof/Laws/State.lean ====
section
/-! SUPPORT. What each setter of State does to each field: one lemma per field per setter, true by rfl. -/

namespace Sys2Proof.Machine

/-! ### setRli -/

@[simp] theorem setRli_rli (s : State) (x : Rli) : (s.setRli x).rli = x := rfl
@[simp] theorem setRli_replica (s : State) (x : Rli) : (s.setRli x).replica = s.replica := rfl
@[simp] theorem setRli_lastHeard (s : State) (x : Rli) : (s.setRli x).lastHeard = s.lastHeard := rfl
@[simp] theorem setRli_member (s : State) (x : Rli) : (s.setRli x).member = s.member := rfl
@[simp] theorem setRli_night (s : State) (x : Rli) : (s.setRli x).night = s.night := rfl
@[simp] theorem setRli_claim (s : State) (x : Rli) : (s.setRli x).claim = s.claim := rfl
@[simp] theorem setRli_gate (s : State) (x : Rli) : (s.setRli x).gate = s.gate := rfl
@[simp] theorem setRli_seq (s : State) (x : Rli) : (s.setRli x).seq = s.seq := rfl
@[simp] theorem setRli_pins (s : State) (x : Rli) : (s.setRli x).pins = s.pins := rfl
@[simp] theorem setRli_link (s : State) (x : Rli) : (s.setRli x).link = s.link := rfl
@[simp] theorem setRli_loader (s : State) (x : Rli) : (s.setRli x).loader = s.loader := rfl
@[simp] theorem setRli_cfg (s : State) (x : Rli) : (s.setRli x).cfg = s.cfg := rfl
@[simp] theorem setRli_freeCount (s : State) (x : Rli) : (s.setRli x).freeCount = s.freeCount := rfl
@[simp] theorem setRli_pending (s : State) (x : Rli) : (s.setRli x).pending = s.pending := rfl

/-! ### setReplica -/

@[simp] theorem setReplica_rli (s : State) (x : Replica) : (s.setReplica x).rli = s.rli := rfl
@[simp] theorem setReplica_replica (s : State) (x : Replica) : (s.setReplica x).replica = x := rfl
@[simp] theorem setReplica_lastHeard (s : State) (x : Replica) : (s.setReplica x).lastHeard = s.lastHeard := rfl
@[simp] theorem setReplica_member (s : State) (x : Replica) : (s.setReplica x).member = s.member := rfl
@[simp] theorem setReplica_night (s : State) (x : Replica) : (s.setReplica x).night = s.night := rfl
@[simp] theorem setReplica_claim (s : State) (x : Replica) : (s.setReplica x).claim = s.claim := rfl
@[simp] theorem setReplica_gate (s : State) (x : Replica) : (s.setReplica x).gate = s.gate := rfl
@[simp] theorem setReplica_seq (s : State) (x : Replica) : (s.setReplica x).seq = s.seq := rfl
@[simp] theorem setReplica_pins (s : State) (x : Replica) : (s.setReplica x).pins = s.pins := rfl
@[simp] theorem setReplica_link (s : State) (x : Replica) : (s.setReplica x).link = s.link := rfl
@[simp] theorem setReplica_loader (s : State) (x : Replica) : (s.setReplica x).loader = s.loader := rfl
@[simp] theorem setReplica_cfg (s : State) (x : Replica) : (s.setReplica x).cfg = s.cfg := rfl
@[simp] theorem setReplica_freeCount (s : State) (x : Replica) : (s.setReplica x).freeCount = s.freeCount := rfl
@[simp] theorem setReplica_pending (s : State) (x : Replica) : (s.setReplica x).pending = s.pending := rfl

/-! ### setLastHeard -/

@[simp] theorem setLastHeard_rli (s : State) (x : List Nat) : (s.setLastHeard x).rli = s.rli := rfl
@[simp] theorem setLastHeard_replica (s : State) (x : List Nat) : (s.setLastHeard x).replica = s.replica := rfl
@[simp] theorem setLastHeard_lastHeard (s : State) (x : List Nat) : (s.setLastHeard x).lastHeard = x := rfl
@[simp] theorem setLastHeard_member (s : State) (x : List Nat) : (s.setLastHeard x).member = s.member := rfl
@[simp] theorem setLastHeard_night (s : State) (x : List Nat) : (s.setLastHeard x).night = s.night := rfl
@[simp] theorem setLastHeard_claim (s : State) (x : List Nat) : (s.setLastHeard x).claim = s.claim := rfl
@[simp] theorem setLastHeard_gate (s : State) (x : List Nat) : (s.setLastHeard x).gate = s.gate := rfl
@[simp] theorem setLastHeard_seq (s : State) (x : List Nat) : (s.setLastHeard x).seq = s.seq := rfl
@[simp] theorem setLastHeard_pins (s : State) (x : List Nat) : (s.setLastHeard x).pins = s.pins := rfl
@[simp] theorem setLastHeard_link (s : State) (x : List Nat) : (s.setLastHeard x).link = s.link := rfl
@[simp] theorem setLastHeard_loader (s : State) (x : List Nat) : (s.setLastHeard x).loader = s.loader := rfl
@[simp] theorem setLastHeard_cfg (s : State) (x : List Nat) : (s.setLastHeard x).cfg = s.cfg := rfl
@[simp] theorem setLastHeard_freeCount (s : State) (x : List Nat) : (s.setLastHeard x).freeCount = s.freeCount := rfl
@[simp] theorem setLastHeard_pending (s : State) (x : List Nat) : (s.setLastHeard x).pending = s.pending := rfl

/-! ### setMember -/

@[simp] theorem setMember_rli (s : State) (x : Member) : (s.setMember x).rli = s.rli := rfl
@[simp] theorem setMember_replica (s : State) (x : Member) : (s.setMember x).replica = s.replica := rfl
@[simp] theorem setMember_lastHeard (s : State) (x : Member) : (s.setMember x).lastHeard = s.lastHeard := rfl
@[simp] theorem setMember_member (s : State) (x : Member) : (s.setMember x).member = x := rfl
@[simp] theorem setMember_night (s : State) (x : Member) : (s.setMember x).night = s.night := rfl
@[simp] theorem setMember_claim (s : State) (x : Member) : (s.setMember x).claim = s.claim := rfl
@[simp] theorem setMember_gate (s : State) (x : Member) : (s.setMember x).gate = s.gate := rfl
@[simp] theorem setMember_seq (s : State) (x : Member) : (s.setMember x).seq = s.seq := rfl
@[simp] theorem setMember_pins (s : State) (x : Member) : (s.setMember x).pins = s.pins := rfl
@[simp] theorem setMember_link (s : State) (x : Member) : (s.setMember x).link = s.link := rfl
@[simp] theorem setMember_loader (s : State) (x : Member) : (s.setMember x).loader = s.loader := rfl
@[simp] theorem setMember_cfg (s : State) (x : Member) : (s.setMember x).cfg = s.cfg := rfl
@[simp] theorem setMember_freeCount (s : State) (x : Member) : (s.setMember x).freeCount = s.freeCount := rfl
@[simp] theorem setMember_pending (s : State) (x : Member) : (s.setMember x).pending = s.pending := rfl

/-! ### setNight -/

@[simp] theorem setNight_rli (s : State) (x : NightUnit) : (s.setNight x).rli = s.rli := rfl
@[simp] theorem setNight_replica (s : State) (x : NightUnit) : (s.setNight x).replica = s.replica := rfl
@[simp] theorem setNight_lastHeard (s : State) (x : NightUnit) : (s.setNight x).lastHeard = s.lastHeard := rfl
@[simp] theorem setNight_member (s : State) (x : NightUnit) : (s.setNight x).member = s.member := rfl
@[simp] theorem setNight_night (s : State) (x : NightUnit) : (s.setNight x).night = x := rfl
@[simp] theorem setNight_claim (s : State) (x : NightUnit) : (s.setNight x).claim = s.claim := rfl
@[simp] theorem setNight_gate (s : State) (x : NightUnit) : (s.setNight x).gate = s.gate := rfl
@[simp] theorem setNight_seq (s : State) (x : NightUnit) : (s.setNight x).seq = s.seq := rfl
@[simp] theorem setNight_pins (s : State) (x : NightUnit) : (s.setNight x).pins = s.pins := rfl
@[simp] theorem setNight_link (s : State) (x : NightUnit) : (s.setNight x).link = s.link := rfl
@[simp] theorem setNight_loader (s : State) (x : NightUnit) : (s.setNight x).loader = s.loader := rfl
@[simp] theorem setNight_cfg (s : State) (x : NightUnit) : (s.setNight x).cfg = s.cfg := rfl
@[simp] theorem setNight_freeCount (s : State) (x : NightUnit) : (s.setNight x).freeCount = s.freeCount := rfl
@[simp] theorem setNight_pending (s : State) (x : NightUnit) : (s.setNight x).pending = s.pending := rfl

/-! ### setClaim -/

@[simp] theorem setClaim_rli (s : State) (x : ClaimEngine) : (s.setClaim x).rli = s.rli := rfl
@[simp] theorem setClaim_replica (s : State) (x : ClaimEngine) : (s.setClaim x).replica = s.replica := rfl
@[simp] theorem setClaim_lastHeard (s : State) (x : ClaimEngine) : (s.setClaim x).lastHeard = s.lastHeard := rfl
@[simp] theorem setClaim_member (s : State) (x : ClaimEngine) : (s.setClaim x).member = s.member := rfl
@[simp] theorem setClaim_night (s : State) (x : ClaimEngine) : (s.setClaim x).night = s.night := rfl
@[simp] theorem setClaim_claim (s : State) (x : ClaimEngine) : (s.setClaim x).claim = x := rfl
@[simp] theorem setClaim_gate (s : State) (x : ClaimEngine) : (s.setClaim x).gate = s.gate := rfl
@[simp] theorem setClaim_seq (s : State) (x : ClaimEngine) : (s.setClaim x).seq = s.seq := rfl
@[simp] theorem setClaim_pins (s : State) (x : ClaimEngine) : (s.setClaim x).pins = s.pins := rfl
@[simp] theorem setClaim_link (s : State) (x : ClaimEngine) : (s.setClaim x).link = s.link := rfl
@[simp] theorem setClaim_loader (s : State) (x : ClaimEngine) : (s.setClaim x).loader = s.loader := rfl
@[simp] theorem setClaim_cfg (s : State) (x : ClaimEngine) : (s.setClaim x).cfg = s.cfg := rfl
@[simp] theorem setClaim_freeCount (s : State) (x : ClaimEngine) : (s.setClaim x).freeCount = s.freeCount := rfl
@[simp] theorem setClaim_pending (s : State) (x : ClaimEngine) : (s.setClaim x).pending = s.pending := rfl

/-! ### setGate -/

@[simp] theorem setGate_rli (s : State) (x : GateMark) : (s.setGate x).rli = s.rli := rfl
@[simp] theorem setGate_replica (s : State) (x : GateMark) : (s.setGate x).replica = s.replica := rfl
@[simp] theorem setGate_lastHeard (s : State) (x : GateMark) : (s.setGate x).lastHeard = s.lastHeard := rfl
@[simp] theorem setGate_member (s : State) (x : GateMark) : (s.setGate x).member = s.member := rfl
@[simp] theorem setGate_night (s : State) (x : GateMark) : (s.setGate x).night = s.night := rfl
@[simp] theorem setGate_claim (s : State) (x : GateMark) : (s.setGate x).claim = s.claim := rfl
@[simp] theorem setGate_gate (s : State) (x : GateMark) : (s.setGate x).gate = x := rfl
@[simp] theorem setGate_seq (s : State) (x : GateMark) : (s.setGate x).seq = s.seq := rfl
@[simp] theorem setGate_pins (s : State) (x : GateMark) : (s.setGate x).pins = s.pins := rfl
@[simp] theorem setGate_link (s : State) (x : GateMark) : (s.setGate x).link = s.link := rfl
@[simp] theorem setGate_loader (s : State) (x : GateMark) : (s.setGate x).loader = s.loader := rfl
@[simp] theorem setGate_cfg (s : State) (x : GateMark) : (s.setGate x).cfg = s.cfg := rfl
@[simp] theorem setGate_freeCount (s : State) (x : GateMark) : (s.setGate x).freeCount = s.freeCount := rfl
@[simp] theorem setGate_pending (s : State) (x : GateMark) : (s.setGate x).pending = s.pending := rfl

/-! ### setSeq -/

@[simp] theorem setSeq_rli (s : State) (x : Sequencer) : (s.setSeq x).rli = s.rli := rfl
@[simp] theorem setSeq_replica (s : State) (x : Sequencer) : (s.setSeq x).replica = s.replica := rfl
@[simp] theorem setSeq_lastHeard (s : State) (x : Sequencer) : (s.setSeq x).lastHeard = s.lastHeard := rfl
@[simp] theorem setSeq_member (s : State) (x : Sequencer) : (s.setSeq x).member = s.member := rfl
@[simp] theorem setSeq_night (s : State) (x : Sequencer) : (s.setSeq x).night = s.night := rfl
@[simp] theorem setSeq_claim (s : State) (x : Sequencer) : (s.setSeq x).claim = s.claim := rfl
@[simp] theorem setSeq_gate (s : State) (x : Sequencer) : (s.setSeq x).gate = s.gate := rfl
@[simp] theorem setSeq_seq (s : State) (x : Sequencer) : (s.setSeq x).seq = x := rfl
@[simp] theorem setSeq_pins (s : State) (x : Sequencer) : (s.setSeq x).pins = s.pins := rfl
@[simp] theorem setSeq_link (s : State) (x : Sequencer) : (s.setSeq x).link = s.link := rfl
@[simp] theorem setSeq_loader (s : State) (x : Sequencer) : (s.setSeq x).loader = s.loader := rfl
@[simp] theorem setSeq_cfg (s : State) (x : Sequencer) : (s.setSeq x).cfg = s.cfg := rfl
@[simp] theorem setSeq_freeCount (s : State) (x : Sequencer) : (s.setSeq x).freeCount = s.freeCount := rfl
@[simp] theorem setSeq_pending (s : State) (x : Sequencer) : (s.setSeq x).pending = s.pending := rfl

/-! ### setPins -/

@[simp] theorem setPins_rli (s : State) (x : Pins) : (s.setPins x).rli = s.rli := rfl
@[simp] theorem setPins_replica (s : State) (x : Pins) : (s.setPins x).replica = s.replica := rfl
@[simp] theorem setPins_lastHeard (s : State) (x : Pins) : (s.setPins x).lastHeard = s.lastHeard := rfl
@[simp] theorem setPins_member (s : State) (x : Pins) : (s.setPins x).member = s.member := rfl
@[simp] theorem setPins_night (s : State) (x : Pins) : (s.setPins x).night = s.night := rfl
@[simp] theorem setPins_claim (s : State) (x : Pins) : (s.setPins x).claim = s.claim := rfl
@[simp] theorem setPins_gate (s : State) (x : Pins) : (s.setPins x).gate = s.gate := rfl
@[simp] theorem setPins_seq (s : State) (x : Pins) : (s.setPins x).seq = s.seq := rfl
@[simp] theorem setPins_pins (s : State) (x : Pins) : (s.setPins x).pins = x := rfl
@[simp] theorem setPins_link (s : State) (x : Pins) : (s.setPins x).link = s.link := rfl
@[simp] theorem setPins_loader (s : State) (x : Pins) : (s.setPins x).loader = s.loader := rfl
@[simp] theorem setPins_cfg (s : State) (x : Pins) : (s.setPins x).cfg = s.cfg := rfl
@[simp] theorem setPins_freeCount (s : State) (x : Pins) : (s.setPins x).freeCount = s.freeCount := rfl
@[simp] theorem setPins_pending (s : State) (x : Pins) : (s.setPins x).pending = s.pending := rfl

/-! ### setLink -/

@[simp] theorem setLink_rli (s : State) (x : LinkPort) : (s.setLink x).rli = s.rli := rfl
@[simp] theorem setLink_replica (s : State) (x : LinkPort) : (s.setLink x).replica = s.replica := rfl
@[simp] theorem setLink_lastHeard (s : State) (x : LinkPort) : (s.setLink x).lastHeard = s.lastHeard := rfl
@[simp] theorem setLink_member (s : State) (x : LinkPort) : (s.setLink x).member = s.member := rfl
@[simp] theorem setLink_night (s : State) (x : LinkPort) : (s.setLink x).night = s.night := rfl
@[simp] theorem setLink_claim (s : State) (x : LinkPort) : (s.setLink x).claim = s.claim := rfl
@[simp] theorem setLink_gate (s : State) (x : LinkPort) : (s.setLink x).gate = s.gate := rfl
@[simp] theorem setLink_seq (s : State) (x : LinkPort) : (s.setLink x).seq = s.seq := rfl
@[simp] theorem setLink_pins (s : State) (x : LinkPort) : (s.setLink x).pins = s.pins := rfl
@[simp] theorem setLink_link (s : State) (x : LinkPort) : (s.setLink x).link = x := rfl
@[simp] theorem setLink_loader (s : State) (x : LinkPort) : (s.setLink x).loader = s.loader := rfl
@[simp] theorem setLink_cfg (s : State) (x : LinkPort) : (s.setLink x).cfg = s.cfg := rfl
@[simp] theorem setLink_freeCount (s : State) (x : LinkPort) : (s.setLink x).freeCount = s.freeCount := rfl
@[simp] theorem setLink_pending (s : State) (x : LinkPort) : (s.setLink x).pending = s.pending := rfl

/-! ### setLoader -/

@[simp] theorem setLoader_rli (s : State) (x : Loader) : (s.setLoader x).rli = s.rli := rfl
@[simp] theorem setLoader_replica (s : State) (x : Loader) : (s.setLoader x).replica = s.replica := rfl
@[simp] theorem setLoader_lastHeard (s : State) (x : Loader) : (s.setLoader x).lastHeard = s.lastHeard := rfl
@[simp] theorem setLoader_member (s : State) (x : Loader) : (s.setLoader x).member = s.member := rfl
@[simp] theorem setLoader_night (s : State) (x : Loader) : (s.setLoader x).night = s.night := rfl
@[simp] theorem setLoader_claim (s : State) (x : Loader) : (s.setLoader x).claim = s.claim := rfl
@[simp] theorem setLoader_gate (s : State) (x : Loader) : (s.setLoader x).gate = s.gate := rfl
@[simp] theorem setLoader_seq (s : State) (x : Loader) : (s.setLoader x).seq = s.seq := rfl
@[simp] theorem setLoader_pins (s : State) (x : Loader) : (s.setLoader x).pins = s.pins := rfl
@[simp] theorem setLoader_link (s : State) (x : Loader) : (s.setLoader x).link = s.link := rfl
@[simp] theorem setLoader_loader (s : State) (x : Loader) : (s.setLoader x).loader = x := rfl
@[simp] theorem setLoader_cfg (s : State) (x : Loader) : (s.setLoader x).cfg = s.cfg := rfl
@[simp] theorem setLoader_freeCount (s : State) (x : Loader) : (s.setLoader x).freeCount = s.freeCount := rfl
@[simp] theorem setLoader_pending (s : State) (x : Loader) : (s.setLoader x).pending = s.pending := rfl

/-! ### setCfg -/

@[simp] theorem setCfg_rli (s : State) (x : Settings) : (s.setCfg x).rli = s.rli := rfl
@[simp] theorem setCfg_replica (s : State) (x : Settings) : (s.setCfg x).replica = s.replica := rfl
@[simp] theorem setCfg_lastHeard (s : State) (x : Settings) : (s.setCfg x).lastHeard = s.lastHeard := rfl
@[simp] theorem setCfg_member (s : State) (x : Settings) : (s.setCfg x).member = s.member := rfl
@[simp] theorem setCfg_night (s : State) (x : Settings) : (s.setCfg x).night = s.night := rfl
@[simp] theorem setCfg_claim (s : State) (x : Settings) : (s.setCfg x).claim = s.claim := rfl
@[simp] theorem setCfg_gate (s : State) (x : Settings) : (s.setCfg x).gate = s.gate := rfl
@[simp] theorem setCfg_seq (s : State) (x : Settings) : (s.setCfg x).seq = s.seq := rfl
@[simp] theorem setCfg_pins (s : State) (x : Settings) : (s.setCfg x).pins = s.pins := rfl
@[simp] theorem setCfg_link (s : State) (x : Settings) : (s.setCfg x).link = s.link := rfl
@[simp] theorem setCfg_loader (s : State) (x : Settings) : (s.setCfg x).loader = s.loader := rfl
@[simp] theorem setCfg_cfg (s : State) (x : Settings) : (s.setCfg x).cfg = x := rfl
@[simp] theorem setCfg_freeCount (s : State) (x : Settings) : (s.setCfg x).freeCount = s.freeCount := rfl
@[simp] theorem setCfg_pending (s : State) (x : Settings) : (s.setCfg x).pending = s.pending := rfl

/-! ### setFreeCount -/

@[simp] theorem setFreeCount_rli (s : State) (x : Nat) : (s.setFreeCount x).rli = s.rli := rfl
@[simp] theorem setFreeCount_replica (s : State) (x : Nat) : (s.setFreeCount x).replica = s.replica := rfl
@[simp] theorem setFreeCount_lastHeard (s : State) (x : Nat) : (s.setFreeCount x).lastHeard = s.lastHeard := rfl
@[simp] theorem setFreeCount_member (s : State) (x : Nat) : (s.setFreeCount x).member = s.member := rfl
@[simp] theorem setFreeCount_night (s : State) (x : Nat) : (s.setFreeCount x).night = s.night := rfl
@[simp] theorem setFreeCount_claim (s : State) (x : Nat) : (s.setFreeCount x).claim = s.claim := rfl
@[simp] theorem setFreeCount_gate (s : State) (x : Nat) : (s.setFreeCount x).gate = s.gate := rfl
@[simp] theorem setFreeCount_seq (s : State) (x : Nat) : (s.setFreeCount x).seq = s.seq := rfl
@[simp] theorem setFreeCount_pins (s : State) (x : Nat) : (s.setFreeCount x).pins = s.pins := rfl
@[simp] theorem setFreeCount_link (s : State) (x : Nat) : (s.setFreeCount x).link = s.link := rfl
@[simp] theorem setFreeCount_loader (s : State) (x : Nat) : (s.setFreeCount x).loader = s.loader := rfl
@[simp] theorem setFreeCount_cfg (s : State) (x : Nat) : (s.setFreeCount x).cfg = s.cfg := rfl
@[simp] theorem setFreeCount_freeCount (s : State) (x : Nat) : (s.setFreeCount x).freeCount = x := rfl
@[simp] theorem setFreeCount_pending (s : State) (x : Nat) : (s.setFreeCount x).pending = s.pending := rfl

/-! ### setPending -/

@[simp] theorem setPending_rli (s : State) (x : List Instr) : (s.setPending x).rli = s.rli := rfl
@[simp] theorem setPending_replica (s : State) (x : List Instr) : (s.setPending x).replica = s.replica := rfl
@[simp] theorem setPending_lastHeard (s : State) (x : List Instr) : (s.setPending x).lastHeard = s.lastHeard := rfl
@[simp] theorem setPending_member (s : State) (x : List Instr) : (s.setPending x).member = s.member := rfl
@[simp] theorem setPending_night (s : State) (x : List Instr) : (s.setPending x).night = s.night := rfl
@[simp] theorem setPending_claim (s : State) (x : List Instr) : (s.setPending x).claim = s.claim := rfl
@[simp] theorem setPending_gate (s : State) (x : List Instr) : (s.setPending x).gate = s.gate := rfl
@[simp] theorem setPending_seq (s : State) (x : List Instr) : (s.setPending x).seq = s.seq := rfl
@[simp] theorem setPending_pins (s : State) (x : List Instr) : (s.setPending x).pins = s.pins := rfl
@[simp] theorem setPending_link (s : State) (x : List Instr) : (s.setPending x).link = s.link := rfl
@[simp] theorem setPending_loader (s : State) (x : List Instr) : (s.setPending x).loader = s.loader := rfl
@[simp] theorem setPending_cfg (s : State) (x : List Instr) : (s.setPending x).cfg = s.cfg := rfl
@[simp] theorem setPending_freeCount (s : State) (x : List Instr) : (s.setPending x).freeCount = s.freeCount := rfl
@[simp] theorem setPending_pending (s : State) (x : List Instr) : (s.setPending x).pending = x := rfl

end Sys2Proof.Machine
end

