-- ==== Sys2Proof/Laws/Kept.lean ====
section
/-! SUPPORT. No operation of the blocks writes the replica, the last-heard table, the power inputs, the loader, the
settings, the counter of free values or the queue of waiting commands: one lemma per operation, to be chained. -/

namespace Sys2Proof.Machine

theorem Kept.refl (s : State) : Kept s s := ⟨rfl, rfl, rfl, rfl, rfl, rfl, rfl⟩

theorem Kept.trans {a b c : State} (h : Kept a b) (k : Kept b c) : Kept a c :=
  ⟨k.replica.trans h.replica, k.lastHeard.trans h.lastHeard, k.pins.trans h.pins, k.loader.trans h.loader,
    k.cfg.trans h.cfg, k.freeCount.trans h.freeCount, k.pending.trans h.pending⟩

theorem Kept.ite {a x y : State} {c : Prop} [Decidable c] (hx : Kept a x) (hy : Kept a y) :
    Kept a (if c then x else y) := by split <;> assumption

theorem Kept.setRli {a s : State} {x : Rli} (h : Kept a s) : Kept a (s.setRli x) :=
  h.trans ⟨rfl, rfl, rfl, rfl, rfl, rfl, rfl⟩

theorem Kept.setMember {a s : State} {x : Member} (h : Kept a s) : Kept a (s.setMember x) :=
  h.trans ⟨rfl, rfl, rfl, rfl, rfl, rfl, rfl⟩

theorem Kept.setNight {a s : State} {x : NightUnit} (h : Kept a s) : Kept a (s.setNight x) :=
  h.trans ⟨rfl, rfl, rfl, rfl, rfl, rfl, rfl⟩

theorem Kept.setClaim {a s : State} {x : ClaimEngine} (h : Kept a s) : Kept a (s.setClaim x) :=
  h.trans ⟨rfl, rfl, rfl, rfl, rfl, rfl, rfl⟩

theorem Kept.setGate {a s : State} {x : GateMark} (h : Kept a s) : Kept a (s.setGate x) :=
  h.trans ⟨rfl, rfl, rfl, rfl, rfl, rfl, rfl⟩

theorem Kept.setSeq {a s : State} {x : Sequencer} (h : Kept a s) : Kept a (s.setSeq x) :=
  h.trans ⟨rfl, rfl, rfl, rfl, rfl, rfl, rfl⟩

theorem Kept.setLink {a s : State} {x : LinkPort} (h : Kept a s) : Kept a (s.setLink x) :=
  h.trans ⟨rfl, rfl, rfl, rfl, rfl, rfl, rfl⟩

theorem Kept.setSlot {src : Source} {x : Slot} {z s : State} (hz : Kept z s) :
    Kept z (s.setSlot src x) := by
  unfold Machine.State.setSlot
  with_reducible repeat' first | exact hz | apply Kept.setRli

theorem Kept.place (src : Source) (b : Body) {z s : State} (hz : Kept z s) :
    Kept z (place src b s) := by
  unfold Machine.place
  with_reducible repeat' first | exact hz | apply Kept.setSlot | split

theorem Kept.withdraw (src : Source) {z s : State} (hz : Kept z s) :
    Kept z (withdraw src s) := by
  unfold Machine.withdraw
  with_reducible repeat' first | exact hz | apply Kept.setSlot | split

theorem Kept.raise (e : Event) {z s : State} (hz : Kept z s) :
    Kept z (raise e s) := by
  unfold Machine.raise
  with_reducible repeat' first | exact hz | apply Kept.setLink

theorem Kept.countDelivered {z s : State} (hz : Kept z s) :
    Kept z (countDelivered s) := by
  unfold Machine.countDelivered
  with_reducible repeat' first | exact hz | apply Kept.setRli

theorem Kept.countVetoed {z s : State} (hz : Kept z s) :
    Kept z (countVetoed s) := by
  unfold Machine.countVetoed
  with_reducible repeat' first | exact hz | apply Kept.setRli

theorem Kept.countArbLoss {z s : State} (hz : Kept z s) :
    Kept z (countArbLoss s) := by
  unfold Machine.countArbLoss
  with_reducible repeat' first | exact hz | apply Kept.setRli

theorem Kept.countRxError {z s : State} (hz : Kept z s) :
    Kept z (countRxError s) := by
  unfold Machine.countRxError
  with_reducible repeat' first | exact hz | apply Kept.setRli

theorem Kept.putMark (h : HeldMark) {z s : State} (hz : Kept z s) :
    Kept z (putMark h s) := by
  unfold Machine.putMark
  with_reducible repeat' first | exact hz | apply Kept.setSlot | apply Kept.setRli | split

theorem Kept.keepMark {z s : State} (hz : Kept z s) :
    Kept z (keepMark s) := by
  unfold Machine.keepMark
  with_reducible repeat' first | exact hz | apply Kept.putMark | apply Kept.ite

theorem Kept.stateMark {z s : State} (hz : Kept z s) :
    Kept z (stateMark s) := by
  unfold Machine.stateMark
  with_reducible repeat' first | exact hz | apply Kept.keepMark | apply Kept.ite

theorem Kept.milestone (k : MarkKind) {z s : State} (hz : Kept z s) :
    Kept z (milestone k s) := by
  unfold Machine.milestone
  dsimp only
  with_reducible repeat' first | exact hz | apply Kept.putMark | apply Kept.setGate | apply Kept.ite

theorem Kept.comparator (progress : Nat) (laterKind : Option MarkKind) {z s : State} (hz : Kept z s) :
    Kept z (comparator progress laterKind s) := by
  unfold Machine.comparator
  dsimp only
  with_reducible repeat' first | exact hz | apply Kept.milestone | apply Kept.ite | split

theorem Kept.progressMark {z s : State} (hz : Kept z s) :
    Kept z (progressMark s) := by
  unfold Machine.progressMark
  with_reducible repeat' first | exact hz | apply Kept.setSlot | split

theorem Kept.presentHeldMark {z s : State} (hz : Kept z s) :
    Kept z (presentHeldMark s) := by
  unfold Machine.presentHeldMark
  with_reducible repeat' first | exact hz | apply Kept.putMark | apply Kept.milestone | apply Kept.setRli | split

theorem Kept.markDelivered (b : Body) {z s : State} (hz : Kept z s) :
    Kept z (markDelivered b s) := by
  unfold Machine.markDelivered
  with_reducible repeat' first | exact hz | apply Kept.presentHeldMark | apply Kept.setGate | apply Kept.ite

theorem Kept.markDropped {z s : State} (hz : Kept z s) :
    Kept z (markDropped s) := by
  unfold Machine.markDropped
  with_reducible repeat' first | exact hz | apply Kept.putMark | apply Kept.setRli

theorem Kept.emittedFor (night : Word16) {z s : State} (hz : Kept z s) :
    Kept z (emittedFor night s) := by
  unfold Machine.emittedFor
  with_reducible repeat' first | exact hz | apply Kept.setGate | apply Kept.ite

theorem Kept.gateReady (night : Word16) {z s : State} (hz : Kept z s) :
    Kept z (gateReady night s) := by
  unfold Machine.gateReady
  with_reducible repeat' first | exact hz | apply Kept.setGate | apply Kept.ite

theorem Kept.startPatience {z s : State} (hz : Kept z s) :
    Kept z (startPatience s) := by
  unfold Machine.startPatience
  with_reducible repeat' first | exact hz | apply Kept.setGate | apply Kept.ite

theorem Kept.stopPatience {z s : State} (hz : Kept z s) :
    Kept z (stopPatience s) := by
  unfold Machine.stopPatience
  with_reducible repeat' first | exact hz | apply Kept.setGate

theorem Kept.patienceAtSync {z s : State} (hz : Kept z s) :
    Kept z (patienceAtSync s) := by
  unfold Machine.patienceAtSync
  with_reducible repeat' first | exact hz | apply Kept.startPatience | apply Kept.ite

theorem Kept.keepSync {z s : State} (hz : Kept z s) :
    Kept z (keepSync s) := by
  unfold Machine.keepSync
  with_reducible repeat' first | exact hz | apply Kept.setClaim | apply Kept.ite

theorem Kept.keepRestart {z s : State} (hz : Kept z s) :
    Kept z (keepRestart s) := by
  unfold Machine.keepRestart
  with_reducible repeat' first | exact hz | apply Kept.setClaim | apply Kept.ite

theorem Kept.recordHold (p : Pool) (units : Nat) {z s : State} (hz : Kept z s) :
    Kept z (recordHold p units s) := by
  unfold Machine.recordHold
  with_reducible repeat' first | exact hz | apply Kept.keepSync | apply Kept.setClaim

theorem Kept.recordReservation (r : Option Pool) {z s : State} (hz : Kept z s) :
    Kept z (recordReservation r s) := by
  unfold Machine.recordReservation
  with_reducible repeat' first | exact hz | apply Kept.keepSync | apply Kept.setClaim

theorem Kept.setRequestState (st : RequestState) {z s : State} (hz : Kept z s) :
    Kept z (setRequestState st s) := by
  unfold Machine.setRequestState
  with_reducible repeat' first | exact hz | apply Kept.setClaim

theorem Kept.stopClaimAge {z s : State} (hz : Kept z s) :
    Kept z (stopClaimAge s) := by
  unfold Machine.stopClaimAge
  with_reducible repeat' first | exact hz | apply Kept.setClaim

theorem Kept.placeClaim (r : Request) {z s : State} (hz : Kept z s) :
    Kept z (placeClaim r s) := by
  unfold Machine.placeClaim
  dsimp only
  with_reducible repeat' first | exact hz | apply Kept.setSlot | apply Kept.setRequestState | apply Kept.setClaim | split

theorem Kept.placePark (r : Request) {z s : State} (hz : Kept z s) :
    Kept z (placePark r s) := by
  unfold Machine.placePark
  with_reducible repeat' first | exact hz | apply Kept.setSlot | apply Kept.setRequestState | split

theorem Kept.setGranted {z s : State} (hz : Kept z s) :
    Kept z (setGranted s) := by
  unfold Machine.setGranted
  with_reducible repeat' first | exact hz | apply Kept.setClaim

theorem Kept.grantRequest (p : Pool) (units : Nat) {z s : State} (hz : Kept z s) :
    Kept z (grantRequest p units s) := by
  unfold Machine.grantRequest
  with_reducible repeat' first | exact hz | apply Kept.recordHold | apply Kept.setGranted

theorem Kept.reread {z s : State} (hz : Kept z s) :
    Kept z (reread s).1 := by
  unfold Machine.reread
  with_reducible repeat' first
      | exact hz | apply Kept.setRequestState | apply Kept.placeClaim | apply Kept.placePark
      | apply Kept.grantRequest | apply Kept.ite | split

theorem Kept.raisePatience {z s : State} (hz : Kept z s) :
    Kept z (raisePatience s) := by
  unfold Machine.raisePatience
  with_reducible repeat' first | exact hz | apply Kept.setClaim | apply Kept.ite

theorem Kept.tryUnpark {z s : State} (hz : Kept z s) :
    Kept z (tryUnpark s) := by
  unfold Machine.tryUnpark
  dsimp only
  with_reducible repeat' first | exact hz | apply Kept.setSlot | apply Kept.setClaim | apply Kept.ite | split

theorem Kept.wantUnpark (p : Pool) {z s : State} (hz : Kept z s) :
    Kept z (wantUnpark p s) := by
  unfold Machine.wantUnpark
  with_reducible repeat' first | exact hz | apply Kept.setClaim

theorem Kept.dropRequestFrame {z s : State} (hz : Kept z s) :
    Kept z (dropRequestFrame s) := by
  unfold Machine.dropRequestFrame
  with_reducible repeat' first
      | exact hz | apply Kept.withdraw | apply Kept.stopClaimAge | apply Kept.setClaim | apply Kept.ite
      | split

theorem Kept.cancelRequest {z s : State} (hz : Kept z s) :
    Kept z (cancelRequest s) := by
  unfold Machine.cancelRequest
  dsimp only
  with_reducible repeat' first
      | exact hz | apply Kept.tryUnpark | apply Kept.wantUnpark | apply Kept.dropRequestFrame
      | apply Kept.setClaim | apply Kept.ite | split

theorem Kept.cancelAll {z s : State} (hz : Kept z s) :
    Kept z (cancelAll s) := by
  unfold Machine.cancelAll
  with_reducible repeat' first | exact hz | apply Kept.cancelRequest | apply Kept.setClaim

theorem Kept.cancelFor (p : Pool) {z s : State} (hz : Kept z s) :
    Kept z (cancelFor p s) := by
  unfold Machine.cancelFor
  dsimp only
  with_reducible repeat' first | exact hz | apply Kept.cancelRequest | apply Kept.setClaim | apply Kept.ite | split

theorem Kept.makeRequest (p : Pool) (units : Nat) {z s : State} (hz : Kept z s) :
    Kept z (makeRequest p units s).1 := by
  unfold Machine.makeRequest
  dsimp only
  with_reducible repeat' first
      | exact hz | apply Kept.reread | apply Kept.cancelRequest | apply Kept.setClaim | apply Kept.ite
      | split

theorem Kept.startRestore {z s : State} (hz : Kept z s) :
    Kept z (startRestore s) := by
  unfold Machine.startRestore
  dsimp only
  with_reducible repeat' first | exact hz | apply Kept.dropRequestFrame | apply Kept.setClaim | apply Kept.ite

theorem Kept.placeRelease (u : PerPool Nat) {z s : State} (hz : Kept z s) :
    Kept z (placeRelease u s) := by
  unfold Machine.placeRelease
  dsimp only
  with_reducible repeat' first | exact hz | apply Kept.setSlot | apply Kept.setRli | apply Kept.ite | split

theorem Kept.owePools (x : PerPool Bool) {z s : State} (hz : Kept z s) :
    Kept z (owePools x s) := by
  unfold Machine.owePools
  with_reducible repeat' first | exact hz | apply Kept.setClaim

theorem Kept.releaseAsk (x : PerPool Bool) {z s : State} (hz : Kept z s) :
    Kept z (releaseAsk x s) := by
  unfold Machine.releaseAsk
  with_reducible repeat' first | exact hz | apply Kept.placeRelease | apply Kept.owePools | apply Kept.ite

theorem Kept.judgeWatch {z s : State} (hz : Kept z s) :
    Kept z (judgeWatch s) := by
  unfold Machine.judgeWatch
  with_reducible repeat' first | exact hz | apply Kept.setSlot | apply Kept.ite | split

theorem Kept.suspendEngine {z s : State} (hz : Kept z s) :
    Kept z (suspendEngine s) := by
  unfold Machine.suspendEngine
  with_reducible repeat' first | exact hz | apply Kept.setClaim

theorem Kept.toState (st : SeqState) {z s : State} (hz : Kept z s) :
    Kept z (toState st s) := by
  unfold Machine.toState
  with_reducible repeat' first | exact hz | apply Kept.setSeq

theorem Kept.enterState (st : SeqState) {z s : State} (hz : Kept z s) :
    Kept z (enterState st s) := by
  unfold Machine.enterState
  with_reducible repeat' first | exact hz | apply Kept.stateMark | apply Kept.toState

theorem Kept.enterWith (k : MarkKind) (st : SeqState) {z s : State} (hz : Kept z s) :
    Kept z (enterWith k st s) := by
  unfold Machine.enterWith
  with_reducible repeat' first | exact hz | apply Kept.milestone | apply Kept.toState

theorem Kept.setOutcome (o : NightOutcome) (skip : Option SkipReason) {z s : State} (hz : Kept z s) :
    Kept z (setOutcome o skip s) := by
  unfold Machine.setOutcome
  dsimp only
  with_reducible repeat' first | exact hz | apply Kept.raise | apply Kept.setSeq | apply Kept.ite

theorem Kept.setLate {z s : State} (hz : Kept z s) :
    Kept z (setLate s) := by
  unfold Machine.setLate
  with_reducible repeat' first | exact hz | apply Kept.setSeq

theorem Kept.setFinish (f : FinishOutcome) {z s : State} (hz : Kept z s) :
    Kept z (setFinish f s) := by
  unfold Machine.setFinish
  with_reducible repeat' first | exact hz | apply Kept.setSeq

theorem Kept.wakeStart {z s : State} (hz : Kept z s) :
    Kept z (wakeStart s) := by
  unfold Machine.wakeStart
  dsimp only
  with_reducible repeat' first | exact hz | apply Kept.stateMark | apply Kept.setSeq | apply Kept.setLink

theorem Kept.wakeTest {z s : State} (hz : Kept z s) :
    Kept z (wakeTest s) := by
  unfold Machine.wakeTest
  with_reducible repeat' first | exact hz | apply Kept.wakeStart | apply Kept.ite

theorem Kept.requestSurge {z s : State} (hz : Kept z s) :
    Kept z (requestSurge s) := by
  unfold Machine.requestSurge
  with_reducible repeat' first | exact hz | apply Kept.makeRequest | apply Kept.wakeTest

theorem Kept.loadGranted {z s : State} (hz : Kept z s) :
    Kept z (loadGranted s) := by
  unfold Machine.loadGranted
  with_reducible repeat' first | exact hz | apply Kept.requestSurge | apply Kept.ite

theorem Kept.requestLoad {z s : State} (hz : Kept z s) :
    Kept z (requestLoad s) := by
  unfold Machine.requestLoad
  dsimp only
  with_reducible repeat' first | exact hz | apply Kept.makeRequest | apply Kept.loadGranted | apply Kept.ite

theorem Kept.feedGranted {z s : State} (hz : Kept z s) :
    Kept z (feedGranted s) := by
  unfold Machine.feedGranted
  with_reducible repeat' first | exact hz | apply Kept.raise | apply Kept.setSeq | apply Kept.ite

theorem Kept.requestFeed {z s : State} (hz : Kept z s) :
    Kept z (requestFeed s) := by
  unfold Machine.requestFeed
  dsimp only
  with_reducible repeat' first | exact hz | apply Kept.makeRequest | apply Kept.feedGranted | apply Kept.ite

theorem Kept.toldGranted (p : Pool) {z s : State} (hz : Kept z s) :
    Kept z (toldGranted p s) := by
  unfold Machine.toldGranted
  with_reducible repeat' first | exact hz | apply Kept.wakeTest | apply Kept.loadGranted | apply Kept.feedGranted | split

theorem Kept.remakeDeferred {z s : State} (hz : Kept z s) :
    Kept z (remakeDeferred s) := by
  unfold Machine.remakeDeferred
  dsimp only
  with_reducible repeat' first
      | exact hz | apply Kept.makeRequest | apply Kept.toldGranted | apply Kept.setClaim | apply Kept.ite
      | split

theorem Kept.tellGrant {z s : State} (hz : Kept z s) :
    Kept z (tellGrant s) := by
  unfold Machine.tellGrant
  with_reducible repeat' first | exact hz | apply Kept.toldGranted | apply Kept.remakeDeferred | apply Kept.ite | split

theorem Kept.rereadTold {z s : State} (hz : Kept z s) :
    Kept z (rereadTold s) := by
  unfold Machine.rereadTold
  dsimp only
  with_reducible repeat' first | exact hz | apply Kept.reread | apply Kept.tellGrant | apply Kept.ite

theorem Kept.claimingStart {z s : State} (hz : Kept z s) :
    Kept z (claimingStart s) := by
  unfold Machine.claimingStart
  with_reducible repeat' first | exact hz | apply Kept.requestLoad | apply Kept.ite

theorem Kept.enterClaiming {z s : State} (hz : Kept z s) :
    Kept z (enterClaiming s) := by
  unfold Machine.enterClaiming
  with_reducible repeat' first | exact hz | apply Kept.enterState | apply Kept.claimingStart

theorem Kept.noteOff {z s : State} (hz : Kept z s) :
    Kept z (noteOff s) := by
  unfold Machine.noteOff
  with_reducible repeat' first | exact hz | apply Kept.cancelRequest | apply Kept.remakeDeferred | apply Kept.ite

theorem Kept.evaluateGate {z s : State} (hz : Kept z s) :
    Kept z (evaluateGate s) := by
  unfold Machine.evaluateGate
  with_reducible repeat' first | exact hz | apply Kept.enterClaiming | apply Kept.setGate | apply Kept.ite

theorem Kept.readGate {z s : State} (hz : Kept z s) :
    Kept z (readGate s) := by
  unfold Machine.readGate
  with_reducible repeat' first | exact hz | apply Kept.enterClaiming | apply Kept.ite

theorem Kept.enterGated {z s : State} (hz : Kept z s) :
    Kept z (enterGated s) := by
  unfold Machine.enterGated
  with_reducible repeat' first
      | exact hz | apply Kept.emittedFor | apply Kept.gateReady | apply Kept.enterState
      | apply Kept.evaluateGate | apply Kept.readGate

theorem Kept.takeUp {z s : State} (hz : Kept z s) :
    Kept z (takeUp s) := by
  unfold Machine.takeUp
  dsimp only
  with_reducible repeat' first | exact hz | apply Kept.emittedFor | apply Kept.setSeq

theorem Kept.takeUpSkipped (reason : SkipReason) {z s : State} (hz : Kept z s) :
    Kept z (takeUpSkipped reason s) := by
  unfold Machine.takeUpSkipped
  with_reducible repeat' first | exact hz | apply Kept.enterWith | apply Kept.setOutcome | apply Kept.takeUp

theorem Kept.takeUpLocal {z s : State} (hz : Kept z s) :
    Kept z (takeUpLocal s) := by
  unfold Machine.takeUpLocal
  with_reducible repeat' first | exact hz | apply Kept.enterWith | apply Kept.setOutcome | apply Kept.takeUp

theorem Kept.takeUpRunning {z s : State} (hz : Kept z s) :
    Kept z (takeUpRunning s) := by
  unfold Machine.takeUpRunning
  with_reducible repeat' first
      | exact hz | apply Kept.enterGated | apply Kept.takeUp | apply Kept.takeUpSkipped
      | apply Kept.takeUpLocal | apply Kept.ite

theorem Kept.takeUpClosed (reason : SkipReason) {z s : State} (hz : Kept z s) :
    Kept z (takeUpClosed reason s) := by
  unfold Machine.takeUpClosed
  with_reducible repeat' first | exact hz | apply Kept.takeUpSkipped

theorem Kept.lookNewer {z s : State} (hz : Kept z s) :
    Kept z (lookNewer s) := by
  unfold Machine.lookNewer
  with_reducible repeat' first | exact hz | apply Kept.takeUpSkipped | apply Kept.takeUpRunning | apply Kept.ite

theorem Kept.finishDone {z s : State} (hz : Kept z s) :
    Kept z (finishDone s) := by
  unfold Machine.finishDone
  dsimp only
  with_reducible repeat' first
      | exact hz | apply Kept.releaseAsk | apply Kept.enterState | apply Kept.setOutcome
      | apply Kept.noteOff | apply Kept.lookNewer | apply Kept.setSeq

theorem Kept.finishingActs {z s : State} (hz : Kept z s) :
    Kept z (finishingActs s) := by
  unfold Machine.finishingActs
  dsimp only
  with_reducible repeat' first | exact hz | apply Kept.releaseAsk | apply Kept.finishDone | apply Kept.setSeq | apply Kept.ite

theorem Kept.enterFinishing (f : FinishOutcome) {z s : State} (hz : Kept z s) :
    Kept z (enterFinishing f s) := by
  unfold Machine.enterFinishing
  with_reducible repeat' first | exact hz | apply Kept.enterState | apply Kept.setFinish | apply Kept.finishingActs

theorem Kept.localEntry {z s : State} (hz : Kept z s) :
    Kept z (localEntry s) := by
  unfold Machine.localEntry
  dsimp only
  with_reducible repeat' first
      | exact hz | apply Kept.cancelAll | apply Kept.releaseAsk | apply Kept.enterWith
      | apply Kept.setOutcome | apply Kept.lookNewer

theorem Kept.skipNight (reason : SkipReason) (after : NightOutcome) {z s : State} (hz : Kept z s) :
    Kept z (skipNight reason after s) := by
  unfold Machine.skipNight
  dsimp only
  with_reducible repeat' first
      | exact hz | apply Kept.cancelAll | apply Kept.releaseAsk | apply Kept.enterWith
      | apply Kept.setOutcome | apply Kept.lookNewer | apply Kept.ite

theorem Kept.longPress {z s : State} (hz : Kept z s) :
    Kept z (longPress s) := by
  unfold Machine.longPress
  with_reducible repeat' first | exact hz | apply Kept.localEntry | apply Kept.setSeq

theorem Kept.failAttempt (c : Cause) {z s : State} (hz : Kept z s) :
    Kept z (failAttempt c s) := by
  unfold Machine.failAttempt
  dsimp only
  with_reducible repeat' first
      | exact hz | apply Kept.cancelAll | apply Kept.releaseAsk | apply Kept.enterState
      | apply Kept.setSeq

theorem Kept.bootingActs {z s : State} (hz : Kept z s) :
    Kept z (bootingActs s) := by
  unfold Machine.bootingActs
  dsimp only
  with_reducible repeat' first
      | exact hz | apply Kept.requestFeed | apply Kept.enterFinishing | apply Kept.setSeq | apply Kept.ite
      | split

theorem Kept.settleEnds {z s : State} (hz : Kept z s) :
    Kept z (settleEnds s) := by
  unfold Machine.settleEnds
  with_reducible repeat' first
      | exact hz | apply Kept.releaseAsk | apply Kept.enterWith | apply Kept.bootingActs
      | apply Kept.setSeq

theorem Kept.cooldownEnds {z s : State} (hz : Kept z s) :
    Kept z (cooldownEnds s) := by
  unfold Machine.cooldownEnds
  with_reducible repeat' first
      | exact hz | apply Kept.enterWith | apply Kept.setOutcome | apply Kept.enterClaiming
      | apply Kept.enterGated | apply Kept.lookNewer | apply Kept.ite | split

theorem Kept.gatedStanding {z s : State} (hz : Kept z s) :
    Kept z (gatedStanding s) := by
  unfold Machine.gatedStanding
  with_reducible repeat' first | exact hz | apply Kept.readGate | apply Kept.skipNight | split

theorem Kept.claimingStanding {z s : State} (hz : Kept z s) :
    Kept z (claimingStanding s) := by
  unfold Machine.claimingStanding
  with_reducible repeat' first
      | exact hz | apply Kept.cancelAll | apply Kept.releaseAsk | apply Kept.enterGated
      | apply Kept.skipNight | split

theorem Kept.bootingStanding {z s : State} (hz : Kept z s) :
    Kept z (bootingStanding s) := by
  unfold Machine.bootingStanding
  with_reducible repeat' first | exact hz | apply Kept.cancelFor | apply Kept.setLate | apply Kept.enterFinishing | split

theorem Kept.imagingStanding {z s : State} (hz : Kept z s) :
    Kept z (imagingStanding s) := by
  unfold Machine.imagingStanding
  with_reducible repeat' first | exact hz | apply Kept.setLate | apply Kept.setFinish | split

theorem Kept.lateStanding {z s : State} (hz : Kept z s) :
    Kept z (lateStanding s) := by
  unfold Machine.lateStanding
  with_reducible repeat' first | exact hz | apply Kept.setLate | split

theorem Kept.standingReaction {z s : State} (hz : Kept z s) :
    Kept z (standingReaction s) := by
  unfold Machine.standingReaction
  with_reducible repeat' first
      | exact hz | apply Kept.gatedStanding | apply Kept.claimingStanding | apply Kept.bootingStanding
      | apply Kept.imagingStanding | apply Kept.lateStanding | split

theorem Kept.workStanding {z s : State} (hz : Kept z s) :
    Kept z (workStanding s) := by
  unfold Machine.workStanding
  dsimp only
  with_reducible repeat' first | exact hz | apply Kept.standingReaction | apply Kept.setSeq | apply Kept.ite

theorem Kept.noteNewer {z s : State} (hz : Kept z s) :
    Kept z (noteNewer s) := by
  unfold Machine.noteNewer
  dsimp only
  with_reducible repeat' first | exact hz | apply Kept.setSeq | apply Kept.ite

theorem Kept.busyNotice {z s : State} (hz : Kept z s) :
    Kept z (busyNotice s) := by
  unfold Machine.busyNotice
  with_reducible repeat' first | exact hz | apply Kept.workStanding | apply Kept.noteNewer

theorem Kept.nightNotice (aborted : Bool) {z s : State} (hz : Kept z s) :
    Kept z (nightNotice aborted s) := by
  unfold Machine.nightNotice
  with_reducible repeat' first
      | exact hz | apply Kept.takeUpRunning | apply Kept.takeUpClosed | apply Kept.busyNotice
      | apply Kept.ite | split

theorem Kept.toldLost (lost : PerPool Bool) {z s : State} (hz : Kept z s) :
    Kept z (toldLost lost s) := by
  unfold Machine.toldLost
  with_reducible repeat' first
      | exact hz | apply Kept.cancelFor | apply Kept.releaseAsk | apply Kept.requestLoad
      | apply Kept.requestFeed | apply Kept.claimingStart | apply Kept.setSeq | apply Kept.ite | split

theorem Kept.bootRecordRead {z s : State} (hz : Kept z s) :
    Kept z (bootRecordRead s) := by
  unfold Machine.bootRecordRead
  with_reducible repeat' first | exact hz | apply Kept.setSeq | apply Kept.ite

theorem Kept.firstReport {z s : State} (hz : Kept z s) :
    Kept z (firstReport s) := by
  unfold Machine.firstReport
  with_reducible repeat' first | exact hz | apply Kept.enterWith | apply Kept.ite

theorem Kept.transferReport {z s : State} (hz : Kept z s) :
    Kept z (transferReport s) := by
  unfold Machine.transferReport
  with_reducible repeat' first | exact hz | apply Kept.milestone | apply Kept.releaseAsk | apply Kept.setSeq

theorem Kept.imageReport {z s : State} (hz : Kept z s) :
    Kept z (imageReport s) := by
  unfold Machine.imageReport
  with_reducible repeat' first | exact hz | apply Kept.enterWith | apply Kept.setFinish | apply Kept.finishingActs | apply Kept.ite

theorem Kept.reportFlags (progress : Nat) (transfer image failed : Bool) {z s : State} (hz : Kept z s) :
    Kept z (reportFlags progress transfer image failed s) := by
  unfold Machine.reportFlags
  dsimp only
  with_reducible repeat' first
      | exact hz | apply Kept.comparator | apply Kept.failAttempt | apply Kept.firstReport
      | apply Kept.transferReport | apply Kept.imageReport | apply Kept.ite

theorem Kept.acceptReport (progress : Nat) (transfer image failed : Bool) {z s : State} (hz : Kept z s) :
    Kept z (acceptReport progress transfer image failed s) := by
  unfold Machine.acceptReport
  with_reducible repeat' first | exact hz | apply Kept.progressMark | apply Kept.reportFlags | apply Kept.setSeq

theorem Kept.takeReport (progress : Nat) (transfer image failed : Bool) {z s : State} (hz : Kept z s) :
    Kept z (takeReport progress transfer image failed s) := by
  unfold Machine.takeReport
  with_reducible repeat' first | exact hz | apply Kept.raise | apply Kept.acceptReport | apply Kept.ite

theorem Kept.reviewIdle {z s : State} (hz : Kept z s) :
    Kept z (reviewIdle s) := by
  unfold Machine.reviewIdle
  with_reducible repeat' first | exact hz | apply Kept.takeUpRunning | apply Kept.lookNewer | apply Kept.ite

theorem Kept.review {z s : State} (hz : Kept z s) :
    Kept z (review s) := by
  unfold Machine.review
  dsimp only
  with_reducible repeat' first
      | exact hz | apply Kept.wakeTest | apply Kept.readGate | apply Kept.busyNotice
      | apply Kept.reviewIdle | apply Kept.ite

theorem Kept.lostRound {z s : State} (hz : Kept z s) :
    Kept z (lostRound s) := by
  unfold Machine.lostRound
  with_reducible repeat' first | exact hz | apply Kept.setRequestState | apply Kept.raisePatience

theorem Kept.dropReservation (p : Pool) {z s : State} (hz : Kept z s) :
    Kept z (dropReservation p s) := by
  unfold Machine.dropReservation
  with_reducible repeat' first | exact hz | apply Kept.recordReservation | apply Kept.ite

theorem Kept.claimWon (p : Pool) (units : Nat) {z s : State} (hz : Kept z s) :
    Kept z (claimWon p units s) := by
  unfold Machine.claimWon
  with_reducible repeat' first
      | exact hz | apply Kept.recordHold | apply Kept.grantRequest | apply Kept.releaseAsk
      | apply Kept.tellGrant | apply Kept.ite

theorem Kept.ownClaim (pool units : Byte) (v : Verdict) {z s : State} (hz : Kept z s) :
    Kept z (ownClaim pool units v s) := by
  unfold Machine.ownClaim
  with_reducible repeat' first
      | exact hz | apply Kept.lostRound | apply Kept.dropReservation | apply Kept.claimWon
      | apply Kept.ite | split

theorem Kept.ownPark (pool : Byte) (v : Verdict) {z s : State} (hz : Kept z s) :
    Kept z (ownPark pool v s) := by
  unfold Machine.ownPark
  dsimp only
  with_reducible repeat' first
      | exact hz | apply Kept.recordReservation | apply Kept.setRequestState | apply Kept.wantUnpark
      | apply Kept.lostRound | apply Kept.ite | split

theorem Kept.ownUnpark (pool : Byte) {z s : State} (hz : Kept z s) :
    Kept z (ownUnpark pool s) := by
  unfold Machine.ownUnpark
  with_reducible repeat' first | exact hz | apply Kept.dropReservation | split

theorem Kept.releaseOutcome (u : PerPool Nat) (p : Pool) {z s : State} (hz : Kept z s) :
    Kept z (releaseOutcome u p s) := by
  unfold Machine.releaseOutcome
  with_reducible repeat' first | exact hz | apply Kept.recordHold | apply Kept.ite

theorem Kept.ownRelease (u : PerPool Nat) {z s : State} (hz : Kept z s) :
    Kept z (ownRelease u s) := by
  unfold Machine.ownRelease
  with_reducible repeat' first | exact hz | apply Kept.claimingStart | apply Kept.releaseOutcome

theorem Kept.peerGrant (p : Pool) {z s : State} (hz : Kept z s) :
    Kept z (peerGrant p s) := by
  unfold Machine.peerGrant
  with_reducible repeat' first | exact hz | apply Kept.raisePatience | apply Kept.ite | split

theorem Kept.losePools (lost : PerPool Bool) {z s : State} (hz : Kept z s) :
    Kept z (losePools lost s) := by
  unfold Machine.losePools
  with_reducible repeat' first | exact hz | apply Kept.startRestore | apply Kept.rereadTold | apply Kept.toldLost | apply Kept.ite

theorem Kept.reclaimedSelf {z s : State} (hz : Kept z s) :
    Kept z (reclaimedSelf s) := by
  unfold Machine.reclaimedSelf
  with_reducible repeat' first | exact hz | apply Kept.keepSync | apply Kept.losePools | apply Kept.setClaim

theorem Kept.nightClearedReservation (r0 : Replica) {z s : State} (hz : Kept z s) :
    Kept z (nightClearedReservation r0 s) := by
  unfold Machine.nightClearedReservation
  with_reducible repeat' first | exact hz | apply Kept.recordReservation | apply Kept.ite | split

theorem Kept.engineNotice (r0 : Replica) (own : Bool) (b : Body) (v : Verdict) {z s : State} (hz : Kept z s) :
    Kept z (engineNotice r0 own b v s) := by
  unfold Machine.engineNotice
  with_reducible repeat' first
      | exact hz | apply Kept.ownClaim | apply Kept.ownPark | apply Kept.ownUnpark | apply Kept.ownRelease
      | apply Kept.peerGrant | apply Kept.reclaimedSelf | apply Kept.nightClearedReservation
      | apply Kept.ite | split

theorem Kept.rereadParked (s0 : State) {z s : State} (hz : Kept z s) :
    Kept z (rereadParked s0 s) := by
  unfold Machine.rereadParked
  with_reducible repeat' first | exact hz | apply Kept.rereadTold | apply Kept.ite | split

theorem Kept.claimEmptied {z s : State} (hz : Kept z s) :
    Kept z (claimEmptied s) := by
  unfold Machine.claimEmptied
  with_reducible repeat' first | exact hz | apply Kept.tryUnpark | apply Kept.rereadTold

theorem Kept.claimLeft {z s : State} (hz : Kept z s) :
    Kept z (claimLeft s) := by
  unfold Machine.claimLeft
  with_reducible repeat' first | exact hz | apply Kept.setClaim

theorem Kept.unparkDropped (b : Body) {z s : State} (hz : Kept z s) :
    Kept z (unparkDropped b s) := by
  unfold Machine.unparkDropped
  with_reducible repeat' first | exact hz | apply Kept.wantUnpark | split

theorem Kept.claimWaiting {z s : State} (hz : Kept z s) :
    Kept z (claimWaiting s) := by
  unfold Machine.claimWaiting
  with_reducible repeat' first | exact hz | apply Kept.withdraw | apply Kept.claimEmptied | apply Kept.claimLeft | apply Kept.ite

theorem Kept.clearHeldRelease {z s : State} (hz : Kept z s) :
    Kept z (clearHeldRelease s) := by
  unfold Machine.clearHeldRelease
  with_reducible repeat' first | exact hz | apply Kept.setRli

theorem Kept.sendRelease (u : PerPool Nat) {z s : State} (hz : Kept z s) :
    Kept z (sendRelease u s) := by
  unfold Machine.sendRelease
  with_reducible repeat' first | exact hz | apply Kept.placeRelease | apply Kept.owePools | apply Kept.ite

theorem Kept.releaseDelivered {z s : State} (hz : Kept z s) :
    Kept z (releaseDelivered s) := by
  unfold Machine.releaseDelivered
  with_reducible repeat' first | exact hz | apply Kept.clearHeldRelease | apply Kept.sendRelease

theorem Kept.releaseDropped (b : Body) {z s : State} (hz : Kept z s) :
    Kept z (releaseDropped b s) := by
  unfold Machine.releaseDropped
  with_reducible repeat' first | exact hz | apply Kept.clearHeldRelease | apply Kept.sendRelease

theorem Kept.releaseWaiting {z s : State} (hz : Kept z s) :
    Kept z (releaseWaiting s) := by
  unfold Machine.releaseWaiting
  with_reducible repeat' first | exact hz | apply Kept.placeRelease | apply Kept.clearHeldRelease

theorem Kept.releaseLost (b : Body) {z s : State} (hz : Kept z s) :
    Kept z (releaseLost b s) := by
  unfold Machine.releaseLost
  with_reducible repeat' first | exact hz | apply Kept.owePools | apply Kept.clearHeldRelease

theorem Kept.takeRecord {z s : State} (hz : Kept z s) :
    Kept z (takeRecord s) := by
  unfold Machine.takeRecord
  with_reducible repeat' first | exact hz | apply Kept.keepSync | apply Kept.setClaim

theorem Kept.takeReservation {z s : State} (hz : Kept z s) :
    Kept z (takeReservation s) := by
  unfold Machine.takeReservation
  with_reducible repeat' first | exact hz | apply Kept.recordReservation

theorem Kept.unparkUnusable {z s : State} (hz : Kept z s) :
    Kept z (unparkUnusable s) := by
  unfold Machine.unparkUnusable
  dsimp only
  with_reducible repeat' first | exact hz | apply Kept.tryUnpark | apply Kept.setClaim

theorem Kept.poolsFound (found : PerPool Bool) {z s : State} (hz : Kept z s) :
    Kept z (poolsFound found s) := by
  unfold Machine.poolsFound
  dsimp only
  with_reducible repeat' first
      | exact hz | apply Kept.setGranted | apply Kept.releaseAsk | apply Kept.tellGrant | apply Kept.ite
      | split

theorem Kept.reconcile {z s : State} (hz : Kept z s) :
    Kept z (reconcile s) := by
  unfold Machine.reconcile
  dsimp only
  with_reducible repeat' first
      | exact hz | apply Kept.startRestore | apply Kept.claimingStart | apply Kept.toldLost
      | apply Kept.takeRecord | apply Kept.takeReservation | apply Kept.unparkUnusable
      | apply Kept.poolsFound | apply Kept.ite

theorem Kept.settleOwed {z s : State} (hz : Kept z s) :
    Kept z (settleOwed s) := by
  unfold Machine.settleOwed
  with_reducible repeat' first | exact hz | apply Kept.placeRelease | apply Kept.setClaim

theorem Kept.engineEntry {z s : State} (hz : Kept z s) :
    Kept z (engineEntry s) := by
  unfold Machine.engineEntry
  dsimp only
  with_reducible repeat' first
      | exact hz | apply Kept.judgeWatch | apply Kept.rereadTold | apply Kept.reconcile
      | apply Kept.settleOwed | apply Kept.setClaim

theorem Kept.rejectMessage (reason : RejectReason) {z s : State} (hz : Kept z s) :
    Kept z (rejectMessage reason s) := by
  unfold Machine.rejectMessage
  with_reducible repeat' first | exact hz | apply Kept.setNight

theorem Kept.acceptMessage (m : OrderMsg) {z s : State} (hz : Kept z s) :
    Kept z (acceptMessage m s) := by
  unfold Machine.acceptMessage
  with_reducible repeat' first | exact hz | apply Kept.place | apply Kept.setNight

theorem Kept.checkMessage (m : List Byte) {z s : State} (hz : Kept z s) :
    Kept z (checkMessage m s) := by
  unfold Machine.checkMessage
  dsimp only
  with_reducible repeat' first | exact hz | apply Kept.rejectMessage | apply Kept.acceptMessage | apply Kept.setNight | split

theorem Kept.receiveMessage (m : List Byte) {z s : State} (hz : Kept z s) :
    Kept z (receiveMessage m s) := by
  unfold Machine.receiveMessage
  with_reducible repeat' first | exact hz | apply Kept.setNight

theorem Kept.sawSilence {z s : State} (hz : Kept z s) :
    Kept z (sawSilence s) := by
  unfold Machine.sawSilence
  with_reducible repeat' first | exact hz | apply Kept.setNight

theorem Kept.orderSilence (line : LineBytes) {z s : State} (hz : Kept z s) :
    Kept z (orderSilence line s) := by
  unfold Machine.orderSilence
  with_reducible repeat' first
      | exact hz | apply Kept.checkMessage | apply Kept.receiveMessage | apply Kept.sawSilence | apply Kept.ite

theorem Kept.forgetRelay {z s : State} (hz : Kept z s) :
    Kept z (forgetRelay s) := by
  unfold Machine.forgetRelay
  with_reducible repeat' first | exact hz | apply Kept.setNight

theorem Kept.rejudgeRelay {z s : State} (hz : Kept z s) :
    Kept z (rejudgeRelay s) := by
  unfold Machine.rejudgeRelay
  with_reducible repeat' first | exact hz | apply Kept.setSlot | apply Kept.forgetRelay | apply Kept.ite | split

theorem Kept.workStep {z s : State} (hz : Kept z s) :
    Kept z (workStep s) := by
  unfold Machine.workStep
  with_reducible repeat' first | exact hz | apply Kept.setSlot | apply Kept.ite | split

theorem Kept.expireCount (c : NightCount) {z s : State} (hz : Kept z s) :
    Kept z (expireCount c s) := by
  unfold Machine.expireCount
  with_reducible repeat' first | exact hz | apply Kept.setNight | split

theorem Kept.setCount (c : NightCount) (t : Timer) {z s : State} (hz : Kept z s) :
    Kept z (setCount c t s) := by
  unfold Machine.setCount
  with_reducible repeat' first | exact hz | apply Kept.setNight | split

theorem Kept.runCount (c : NightCount) (duration age : Nat) {z s : State} (hz : Kept z s) :
    Kept z (runCount c duration age s) := by
  unfold Machine.runCount
  with_reducible repeat' first | exact hz | apply Kept.expireCount | apply Kept.setCount | apply Kept.ite

theorem Kept.clearCounts {z s : State} (hz : Kept z s) :
    Kept z (clearCounts s) := by
  unfold Machine.clearCounts
  with_reducible repeat' first | exact hz | apply Kept.setNight

theorem Kept.countsAt (t : NightState) {z s : State} (hz : Kept z s) :
    Kept z (countsAt t s) := by
  unfold Machine.countsAt
  with_reducible repeat' first | exact hz | apply Kept.clearCounts | apply Kept.setNight | split

theorem Kept.orderCounts (age : Nat) {z s : State} (hz : Kept z s) :
    Kept z (orderCounts age s) := by
  unfold Machine.orderCounts
  dsimp only
  with_reducible repeat' first | exact hz | apply Kept.runCount | apply Kept.clearCounts | apply Kept.ite

theorem Kept.nightCounts (age : Nat) {z s : State} (hz : Kept z s) :
    Kept z (nightCounts age s) := by
  unfold Machine.nightCounts
  dsimp only
  with_reducible repeat' first | exact hz | apply Kept.runCount | apply Kept.countsAt | apply Kept.ite

theorem Kept.raiseRunning {z s : State} (hz : Kept z s) :
    Kept z (raiseRunning s) := by
  unfold Machine.raiseRunning
  with_reducible repeat' first | exact hz | apply Kept.raise | apply Kept.ite

theorem Kept.patienceRunning {z s : State} (hz : Kept z s) :
    Kept z (patienceRunning s) := by
  unfold Machine.patienceRunning
  with_reducible repeat' first | exact hz | apply Kept.startPatience | apply Kept.ite

theorem Kept.nightApplied (b : Body) (age : Nat) {z s : State} (hz : Kept z s) :
    Kept z (nightApplied b age s) := by
  unfold Machine.nightApplied
  dsimp only
  with_reducible repeat' first
      | exact hz | apply Kept.raise | apply Kept.stopPatience | apply Kept.rejudgeRelay
      | apply Kept.orderCounts | apply Kept.nightCounts | apply Kept.raiseRunning
      | apply Kept.patienceRunning | apply Kept.ite | split

theorem Kept.countsFromRun0 (run0 : List Byte) {z s : State} (hz : Kept z s) :
    Kept z (countsFromRun0 run0 s) := by
  unfold Machine.countsFromRun0
  dsimp only
  with_reducible repeat' first | exact hz | apply Kept.setNight

theorem Kept.placeRun0 {z s : State} (hz : Kept z s) :
    Kept z (placeRun0 s) := by
  unfold Machine.placeRun0
  with_reducible repeat' first | exact hz | apply Kept.place

theorem Kept.startAnswer (asker : Nat) {z s : State} (hz : Kept z s) :
    Kept z (startAnswer asker s) := by
  unfold Machine.startAnswer
  with_reducible repeat' first | exact hz | apply Kept.placeRun0 | apply Kept.setMember

theorem Kept.refreshRun0 {z s : State} (hz : Kept z s) :
    Kept z (refreshRun0 s) := by
  unfold Machine.refreshRun0
  with_reducible repeat' first | exact hz | apply Kept.setSlot | apply Kept.ite | split

theorem Kept.currentRun0 {z s : State} (hz : Kept z s) :
    Kept z (currentRun0 s) := by
  unfold Machine.currentRun0
  with_reducible repeat' first | exact hz | apply Kept.setSlot | apply Kept.ite | split

theorem Kept.clearAnswerer {z s : State} (hz : Kept z s) :
    Kept z (clearAnswerer s) := by
  unfold Machine.clearAnswerer
  with_reducible repeat' first | exact hz | apply Kept.setMember

theorem Kept.stopSeries {z s : State} (hz : Kept z s) :
    Kept z (stopSeries s) := by
  unfold Machine.stopSeries
  with_reducible repeat' first | exact hz | apply Kept.withdraw | apply Kept.setMember

theorem Kept.placeRun (k : Nat) {z s : State} (hz : Kept z s) :
    Kept z (placeRun k s) := by
  unfold Machine.placeRun
  with_reducible repeat' first | exact hz | apply Kept.place | apply Kept.setMember | split

theorem Kept.beginSeries {z s : State} (hz : Kept z s) :
    Kept z (beginSeries s) := by
  unfold Machine.beginSeries
  with_reducible repeat' first | exact hz | apply Kept.placeRun | apply Kept.setMember

theorem Kept.runDelivered (k : Nat) {z s : State} (hz : Kept z s) :
    Kept z (runDelivered k s) := by
  unfold Machine.runDelivered
  with_reducible repeat' first | exact hz | apply Kept.placeRun | apply Kept.setMember | apply Kept.ite

theorem Kept.answerAgain {z s : State} (hz : Kept z s) :
    Kept z (answerAgain s) := by
  unfold Machine.answerAgain
  with_reducible repeat' first | exact hz | apply Kept.placeRun0 | apply Kept.ite

theorem Kept.seriesDelivered (b : Body) {z s : State} (hz : Kept z s) :
    Kept z (seriesDelivered b s) := by
  unfold Machine.seriesDelivered
  with_reducible repeat' first
      | exact hz | apply Kept.beginSeries | apply Kept.runDelivered | apply Kept.answerAgain
      | apply Kept.ite | split

theorem Kept.seriesDropped (b : Body) {z s : State} (hz : Kept z s) :
    Kept z (seriesDropped b s) := by
  unfold Machine.seriesDropped
  with_reducible repeat' first | exact hz | apply Kept.answerAgain | apply Kept.setMember | apply Kept.ite

theorem Kept.answerHeld {z s : State} (hz : Kept z s) :
    Kept z (answerHeld s) := by
  unfold Machine.answerHeld
  with_reducible repeat' first | exact hz | apply Kept.startAnswer | apply Kept.setMember | apply Kept.ite

theorem Kept.endWatch {z s : State} (hz : Kept z s) :
    Kept z (endWatch s) := by
  unfold Machine.endWatch
  with_reducible repeat' first | exact hz | apply Kept.answerHeld | apply Kept.setMember | split

theorem Kept.setWatch (answerer last : Nat) {z s : State} (hz : Kept z s) :
    Kept z (setWatch answerer last s) := by
  unfold Machine.setWatch
  with_reducible repeat' first | exact hz | apply Kept.setMember

theorem Kept.watchRun (sender k : Nat) {z s : State} (hz : Kept z s) :
    Kept z (watchRun sender k s) := by
  unfold Machine.watchRun
  with_reducible repeat' first | exact hz | apply Kept.endWatch | apply Kept.setWatch | apply Kept.ite | split

theorem Kept.run0Applied (own : Bool) {z s : State} (hz : Kept z s) :
    Kept z (run0Applied own s) := by
  unfold Machine.run0Applied
  dsimp only
  with_reducible repeat' first
      | exact hz | apply Kept.withdraw | apply Kept.stopSeries | apply Kept.setMember | apply Kept.ite
      | split

theorem Kept.askApplied (sender : Nat) {z s : State} (hz : Kept z s) :
    Kept z (askApplied sender s) := by
  unfold Machine.askApplied
  with_reducible repeat' first | exact hz | apply Kept.startAnswer | apply Kept.setMember | apply Kept.ite

theorem Kept.catchUpNotice (own : Bool) (sender : Nat) (b : Body) {z s : State} (hz : Kept z s) :
    Kept z (catchUpNotice own sender b s) := by
  unfold Machine.catchUpNotice
  with_reducible repeat' first
      | exact hz | apply Kept.watchRun | apply Kept.run0Applied | apply Kept.askApplied | apply Kept.ite
      | split

theorem Kept.nightNotices (b : Body) {z s : State} (hz : Kept z s) :
    Kept z (nightNotices b s) := by
  unfold Machine.nightNotices
  with_reducible repeat' first | exact hz | apply Kept.nightNotice | apply Kept.workStep | apply Kept.refreshRun0

theorem Kept.placeAsk {z s : State} (hz : Kept z s) :
    Kept z (placeAsk s) := by
  unfold Machine.placeAsk
  with_reducible repeat' first | exact hz | apply Kept.setSlot | apply Kept.setRli | split

theorem Kept.clearJoiner {z s : State} (hz : Kept z s) :
    Kept z (clearJoiner s) := by
  unfold Machine.clearJoiner
  with_reducible repeat' first | exact hz | apply Kept.setMember

theorem Kept.joinEntry {z s : State} (hz : Kept z s) :
    Kept z (joinEntry s) := by
  unfold Machine.joinEntry
  dsimp only
  with_reducible repeat' first | exact hz | apply Kept.placeAsk | apply Kept.clearJoiner | apply Kept.setMember

theorem Kept.isolate (duplicate : Bool) {z s : State} (hz : Kept z s) :
    Kept z (isolate duplicate s) := by
  unfold Machine.isolate
  dsimp only
  with_reducible repeat' first
      | exact hz | apply Kept.raise | apply Kept.suspendEngine | apply Kept.clearAnswerer
      | apply Kept.clearJoiner | apply Kept.setRli | apply Kept.setMember | apply Kept.ite

theorem Kept.askUnsuccessful {z s : State} (hz : Kept z s) :
    Kept z (askUnsuccessful s) := by
  unfold Machine.askUnsuccessful
  with_reducible repeat' first | exact hz | apply Kept.placeAsk | apply Kept.isolate | apply Kept.setMember | apply Kept.ite

theorem Kept.abandon {z s : State} (hz : Kept z s) :
    Kept z (abandon s) := by
  unfold Machine.abandon
  with_reducible repeat' first | exact hz | apply Kept.clearJoiner | apply Kept.askUnsuccessful

theorem Kept.seriesGapOver {z s : State} (hz : Kept z s) :
    Kept z (seriesGapOver s) := by
  unfold Machine.seriesGapOver
  dsimp only
  with_reducible repeat' first | exact hz | apply Kept.abandon | apply Kept.setMember | split

theorem Kept.askDelivered {z s : State} (hz : Kept z s) :
    Kept z (askDelivered s) := by
  unfold Machine.askDelivered
  with_reducible repeat' first | exact hz | apply Kept.setMember | apply Kept.ite

theorem Kept.askDropped {z s : State} (hz : Kept z s) :
    Kept z (askDropped s) := by
  unfold Machine.askDropped
  with_reducible repeat' first | exact hz | apply Kept.askUnsuccessful | apply Kept.setMember | apply Kept.ite

theorem Kept.askEmptied {z s : State} (hz : Kept z s) :
    Kept z (askEmptied s) := by
  unfold Machine.askEmptied
  with_reducible repeat' first | exact hz | apply Kept.placeAsk | apply Kept.setRli | apply Kept.ite

theorem Kept.syncEntry {z s : State} (hz : Kept z s) :
    Kept z (syncEntry s) := by
  unfold Machine.syncEntry
  dsimp only
  with_reducible repeat' first
      | exact hz | apply Kept.clearAnswerer | apply Kept.clearJoiner | apply Kept.setRli
      | apply Kept.setMember

theorem Kept.enterSync {z s : State} (hz : Kept z s) :
    Kept z (enterSync s) := by
  unfold Machine.enterSync
  with_reducible repeat' first
      | exact hz | apply Kept.keepMark | apply Kept.patienceAtSync | apply Kept.evaluateGate
      | apply Kept.review | apply Kept.engineEntry | apply Kept.workStep | apply Kept.syncEntry

theorem Kept.recordInstall (answerer asker : Nat) {z s : State} (hz : Kept z s) :
    Kept z (recordInstall answerer asker s) := by
  unfold Machine.recordInstall
  with_reducible repeat' first | exact hz | apply Kept.setMember

theorem Kept.foundRow {z s : State} (hz : Kept z s) :
    Kept z (foundRow s) := by
  unfold Machine.foundRow
  with_reducible repeat' first | exact hz | apply Kept.enterSync | apply Kept.recordInstall

theorem Kept.adopt (sender : Nat) (asker : Byte) (payload : List Byte) {z s : State} (hz : Kept z s) :
    Kept z (adopt sender asker payload s) := by
  unfold Machine.adopt
  with_reducible repeat' first | exact hz | apply Kept.setMember

theorem Kept.bufferFrame (a : Adopted) (own : Bool) (sender : Nat) (b : Body) {z s : State} (hz : Kept z s) :
    Kept z (bufferFrame a own sender b s) := by
  unfold Machine.bufferFrame
  with_reducible repeat' first | exact hz | apply Kept.abandon | apply Kept.setMember | apply Kept.ite

theorem Kept.storeRun (a : Adopted) (payload : List Byte) {z s : State} (hz : Kept z s) :
    Kept z (storeRun a payload s) := by
  unfold Machine.storeRun
  with_reducible repeat' first | exact hz | apply Kept.setMember

theorem Kept.lateFrame (sender : Nat) (b : Body) {z s : State} (hz : Kept z s) :
    Kept z (lateFrame sender b s) := by
  unfold Machine.lateFrame
  with_reducible repeat' first | exact hz | apply Kept.setMember | apply Kept.ite | split

theorem Kept.joiningFrame (own : Bool) (sender : Nat) (b : Body) {z s : State} (hz : Kept z s) :
    Kept z (joiningFrame own sender b s) := by
  unfold Machine.joiningFrame
  with_reducible repeat' first
      | exact hz | apply Kept.adopt | apply Kept.lateFrame | apply Kept.setMember | apply Kept.ite | split

theorem Kept.oweWaiting {z s : State} (hz : Kept z s) :
    Kept z (oweWaiting s) := by
  unfold Machine.oweWaiting
  with_reducible repeat' first | exact hz | apply Kept.releaseLost | split

theorem Kept.desyncQueue {z s : State} (hz : Kept z s) :
    Kept z (desyncQueue s) := by
  unfold Machine.desyncQueue
  with_reducible repeat' first | exact hz | apply Kept.withdraw | apply Kept.forgetRelay | apply Kept.oweWaiting

theorem Kept.clearQueue {z s : State} (hz : Kept z s) :
    Kept z (clearQueue s) := by
  unfold Machine.clearQueue
  dsimp only
  with_reducible repeat' first | exact hz | apply Kept.setRli

theorem Kept.forgetClaimFrame {z s : State} (hz : Kept z s) :
    Kept z (forgetClaimFrame s) := by
  unfold Machine.forgetClaimFrame
  with_reducible repeat' first | exact hz | apply Kept.claimLeft | apply Kept.ite

theorem Kept.duplicateReported {z s : State} (hz : Kept z s) :
    Kept z (duplicateReported s) := by
  unfold Machine.duplicateReported
  with_reducible repeat' first | exact hz | apply Kept.isolate | split

theorem Kept.startSending (src : Source) (field : Word16) {z s : State} (hz : Kept z s) :
    Kept z (startSending src field s) := by
  unfold Machine.startSending
  with_reducible repeat' first | exact hz | apply Kept.setSlot | split

theorem Kept.startAttempt {z s : State} (hz : Kept z s) :
    Kept z (startAttempt s) := by
  unfold Machine.startAttempt
  dsimp only
  with_reducible repeat' first | exact hz | apply Kept.currentRun0 | apply Kept.startSending | apply Kept.ite | split

theorem Kept.slotWaiting (src : Source) {z s : State} (hz : Kept z s) :
    Kept z (slotWaiting src s) := by
  unfold Machine.slotWaiting
  with_reducible repeat' first
      | exact hz | apply Kept.presentHeldMark | apply Kept.judgeWatch | apply Kept.claimWaiting
      | apply Kept.releaseWaiting | apply Kept.workStep | split

theorem Kept.toldDelivered (src : Source) (b : Body) {z s : State} (hz : Kept z s) :
    Kept z (toldDelivered src b s) := by
  unfold Machine.toldDelivered
  with_reducible repeat' first
      | exact hz | apply Kept.markDelivered | apply Kept.judgeWatch | apply Kept.claimEmptied
      | apply Kept.claimLeft | apply Kept.releaseDelivered | apply Kept.forgetRelay | apply Kept.workStep
      | apply Kept.seriesDelivered | apply Kept.askDelivered | apply Kept.askEmptied | split

theorem Kept.toldDropped (src : Source) (b : Body) {z s : State} (hz : Kept z s) :
    Kept z (toldDropped src b s) := by
  unfold Machine.toldDropped
  with_reducible repeat' first
      | exact hz | apply Kept.markDropped | apply Kept.judgeWatch | apply Kept.claimEmptied
      | apply Kept.claimLeft | apply Kept.unparkDropped | apply Kept.releaseDropped
      | apply Kept.forgetRelay | apply Kept.workStep | apply Kept.seriesDropped | apply Kept.askDropped
      | apply Kept.askEmptied | split

theorem Kept.toldCleared (src : Source) (b : Body) {z s : State} (hz : Kept z s) :
    Kept z (toldCleared src b s) := by
  unfold Machine.toldCleared
  with_reducible repeat' first
      | exact hz | apply Kept.presentHeldMark | apply Kept.judgeWatch | apply Kept.claimEmptied
      | apply Kept.claimLeft | apply Kept.releaseLost | apply Kept.forgetRelay | apply Kept.workStep
      | apply Kept.answerAgain | apply Kept.askEmptied | split

theorem Kept.attemptBack (src : Source) (q : Queued) (cleared : Bool) {z s : State} (hz : Kept z s) :
    Kept z (attemptBack src q cleared s) := by
  unfold Machine.attemptBack
  with_reducible repeat' first | exact hz | apply Kept.setSlot | apply Kept.slotWaiting | apply Kept.toldCleared | apply Kept.ite

theorem Kept.loseArbitration {z s : State} (hz : Kept z s) :
    Kept z (loseArbitration s) := by
  unfold Machine.loseArbitration
  with_reducible repeat' first | exact hz | apply Kept.countArbLoss | apply Kept.attemptBack | split

theorem Kept.noteCollision {z s : State} (hz : Kept z s) :
    Kept z (noteCollision s) := by
  unfold Machine.noteCollision
  dsimp only
  with_reducible repeat' first | exact hz | apply Kept.duplicateReported | apply Kept.setRli | apply Kept.ite

theorem Kept.collide {z s : State} (hz : Kept z s) :
    Kept z (collide s) := by
  unfold Machine.collide
  with_reducible repeat' first | exact hz | apply Kept.attemptBack | apply Kept.noteCollision | split

theorem Kept.resetVetoRun {z s : State} (hz : Kept z s) :
    Kept z (resetVetoRun s) := by
  unfold Machine.resetVetoRun
  with_reducible repeat' first | exact hz | apply Kept.setRli

theorem Kept.dropFrame (src : Source) (q : Queued) {z s : State} (hz : Kept z s) :
    Kept z (dropFrame src q s) := by
  unfold Machine.dropFrame
  with_reducible repeat' first | exact hz | apply Kept.setSlot | apply Kept.raise | apply Kept.toldDropped

theorem Kept.ownVetoed (src : Source) (q : Queued) (cleared : Bool) {z s : State} (hz : Kept z s) :
    Kept z (ownVetoed src q cleared s) := by
  unfold Machine.ownVetoed
  dsimp only
  with_reducible repeat' first
      | exact hz | apply Kept.countVetoed | apply Kept.attemptBack | apply Kept.resetVetoRun
      | apply Kept.dropFrame | apply Kept.setRli | apply Kept.ite

theorem Kept.ownSlotEmptied (src : Source) (b : Body) (cleared : Bool) {z s : State} (hz : Kept z s) :
    Kept z (ownSlotEmptied src b cleared s) := by
  unfold Machine.ownSlotEmptied
  dsimp only
  with_reducible repeat' first | exact hz | apply Kept.setSlot | apply Kept.toldDelivered | apply Kept.toldCleared | apply Kept.ite

theorem Kept.backAtStuck {z s : State} (hz : Kept z s) :
    Kept z (backAtStuck s) := by
  unfold Machine.backAtStuck
  with_reducible repeat' first | exact hz | apply Kept.attemptBack | split

theorem Kept.lineSticks {z s : State} (hz : Kept z s) :
    Kept z (lineSticks s) := by
  unfold Machine.lineSticks
  dsimp only
  with_reducible repeat' first | exact hz | apply Kept.raise | apply Kept.backAtStuck | apply Kept.setRli

theorem Kept.busTaken {z s : State} (hz : Kept z s) :
    Kept z (busTaken s) := by
  unfold Machine.busTaken
  with_reducible repeat' first | exact hz | apply Kept.setLink

theorem Kept.busSilent {z s : State} (hz : Kept z s) :
    Kept z (busSilent s) := by
  unfold Machine.busSilent
  with_reducible repeat' first | exact hz | apply Kept.setLink

theorem Kept.busDrives (b : Byte) {z s : State} (hz : Kept z s) :
    Kept z (busDrives b s) := by
  unfold Machine.busDrives
  with_reducible repeat' first | exact hz | apply Kept.setLink

theorem Kept.endWrite {z s : State} (hz : Kept z s) :
    Kept z (endWrite s) := by
  unfold Machine.endWrite
  with_reducible repeat' first | exact hz | apply Kept.setLink

theorem Kept.pointTo (address : BitVec 7) (byte : Byte) {z s : State} (hz : Kept z s) :
    Kept z (pointTo address byte s) := by
  unfold Machine.pointTo
  with_reducible repeat' first
      | exact hz | apply Kept.busTaken | apply Kept.busSilent | apply Kept.endWrite | apply Kept.setLink
      | apply Kept.ite | split

theorem Kept.writeView (value : Byte) {z s : State} (hz : Kept z s) :
    Kept z (writeView value s) := by
  unfold Machine.writeView
  with_reducible repeat' first | exact hz | apply Kept.setLink | apply Kept.ite

theorem Kept.writeIndex (value : Byte) {z s : State} (hz : Kept z s) :
    Kept z (writeIndex value s) := by
  unfold Machine.writeIndex
  with_reducible repeat' first | exact hz | apply Kept.setLink

theorem Kept.writeStation (value : Byte) {z s : State} (hz : Kept z s) :
    Kept z (writeStation value s) := by
  unfold Machine.writeStation
  with_reducible repeat' first | exact hz | apply Kept.setLink | apply Kept.ite

theorem Kept.passBegun {z s : State} (hz : Kept z s) :
    Kept z (passBegun s) := by
  unfold Machine.passBegun
  with_reducible repeat' first | exact hz | apply Kept.bootRecordRead | apply Kept.setLink | apply Kept.ite

theorem Kept.beginPass {z s : State} (hz : Kept z s) :
    Kept z (beginPass s) := by
  unfold Machine.beginPass
  with_reducible repeat' first | exact hz | apply Kept.passBegun | apply Kept.setLink

theorem Kept.advanceIndex {z s : State} (hz : Kept z s) :
    Kept z (advanceIndex s) := by
  unfold Machine.advanceIndex
  with_reducible repeat' first | exact hz | apply Kept.setLink | apply Kept.ite

theorem Kept.readData {z s : State} (hz : Kept z s) :
    Kept z (readData s) := by
  unfold Machine.readData
  dsimp only
  with_reducible repeat' first
      | exact hz | apply Kept.busDrives | apply Kept.beginPass | apply Kept.advanceIndex
      | apply Kept.setLink | apply Kept.ite

theorem Kept.handReport (bytes : List Byte) {z s : State} (hz : Kept z s) :
    Kept z (handReport bytes s) := by
  unfold Machine.handReport
  dsimp only
  with_reducible repeat' first | exact hz | apply Kept.takeReport | apply Kept.setLink

theorem Kept.writeData (value : Byte) {z s : State} (hz : Kept z s) :
    Kept z (writeData value s) := by
  unfold Machine.writeData
  dsimp only
  with_reducible repeat' first | exact hz | apply Kept.handReport | apply Kept.setLink | apply Kept.ite

theorem Kept.copyEvents (position : Nat) {z s : State} (hz : Kept z s) :
    Kept z (copyEvents position s) := by
  unfold Machine.copyEvents
  with_reducible repeat' first | exact hz | apply Kept.setLink | apply Kept.ite

theorem Kept.clearShown (shown : Word16) {z s : State} (hz : Kept z s) :
    Kept z (clearShown shown s) := by
  unfold Machine.clearShown
  with_reducible repeat' first | exact hz | apply Kept.setLink

theorem Kept.readEvents (position : Nat) {z s : State} (hz : Kept z s) :
    Kept z (readEvents position s) := by
  unfold Machine.readEvents
  dsimp only
  with_reducible repeat' first
      | exact hz | apply Kept.busDrives | apply Kept.copyEvents | apply Kept.clearShown | apply Kept.ite
      | split

theorem Kept.readRegister (r : Register) (position : Nat) {z s : State} (hz : Kept z s) :
    Kept z (readRegister r position s) := by
  unfold Machine.readRegister
  with_reducible repeat' first
      | exact hz | apply Kept.readData | apply Kept.readEvents | apply Kept.busDrives | split

theorem Kept.busRead (address : BitVec 7) (position : Nat) {z s : State} (hz : Kept z s) :
    Kept z (busRead address position s) := by
  unfold Machine.busRead
  dsimp only
  with_reducible repeat' first
      | exact hz | apply Kept.readRegister | apply Kept.busSilent | apply Kept.endWrite | apply Kept.ite

theorem Kept.writeEvents (position : Nat) (value : Byte) {z s : State} (hz : Kept z s) :
    Kept z (writeEvents position value s) := by
  unfold Machine.writeEvents
  with_reducible repeat' first | exact hz | apply Kept.setLink | split

theorem Kept.writeMask (position : Nat) (value : Byte) {z s : State} (hz : Kept z s) :
    Kept z (writeMask position value s) := by
  unfold Machine.writeMask
  with_reducible repeat' first | exact hz | apply Kept.setLink | apply Kept.ite

theorem Kept.noteCommand (code : Byte) (status : CommandStatus) {z s : State} (hz : Kept z s) :
    Kept z (noteCommand code status s) := by
  unfold Machine.noteCommand
  with_reducible repeat' first | exact hz | apply Kept.setLink

theorem Kept.takeProbe (argument : Byte) {z s : State} (hz : Kept z s) :
    Kept z (takeProbe argument s) := by
  unfold Machine.takeProbe
  with_reducible repeat' first | exact hz | apply Kept.noteCommand | apply Kept.setLink

theorem Kept.powerGoodRises {z s : State} (hz : Kept z s) :
    Kept z (powerGoodRises s) := by
  unfold Machine.powerGoodRises
  with_reducible repeat' first | exact hz | apply Kept.localEntry | apply Kept.setSeq | split

theorem Kept.powerGoodFalls {z s : State} (hz : Kept z s) :
    Kept z (powerGoodFalls s) := by
  unfold Machine.powerGoodFalls
  with_reducible repeat' first | exact hz | apply Kept.finishDone | apply Kept.failAttempt | split

theorem Kept.givePermit {z s : State} (hz : Kept z s) :
    Kept z (givePermit s) := by
  unfold Machine.givePermit
  with_reducible repeat' first | exact hz | apply Kept.setSeq

theorem Kept.passPress {z s : State} (hz : Kept z s) :
    Kept z (passPress s) := by
  unfold Machine.passPress
  with_reducible repeat' first | exact hz | apply Kept.setSeq

theorem Kept.holdPress {z s : State} (hz : Kept z s) :
    Kept z (holdPress s) := by
  unfold Machine.holdPress
  with_reducible repeat' first | exact hz | apply Kept.setSeq

theorem Kept.pressBegins {z s : State} (hz : Kept z s) :
    Kept z (pressBegins s) := by
  unfold Machine.pressBegins
  with_reducible repeat' first | exact hz | apply Kept.localEntry | apply Kept.passPress | apply Kept.holdPress | split

theorem Kept.pressEnds {z s : State} (hz : Kept z s) :
    Kept z (pressEnds s) := by
  unfold Machine.pressEnds
  with_reducible repeat' first | exact hz | apply Kept.setSeq

theorem Kept.pressHeldOut {z s : State} (hz : Kept z s) :
    Kept z (pressHeldOut s) := by
  unfold Machine.pressHeldOut
  dsimp only
  with_reducible repeat' first | exact hz | apply Kept.longPress | apply Kept.passPress | apply Kept.setSeq | split

theorem Kept.shutdownRunsOut {z s : State} (hz : Kept z s) :
    Kept z (shutdownRunsOut s) := by
  unfold Machine.shutdownRunsOut
  with_reducible repeat' first | exact hz | apply Kept.finishDone | apply Kept.setSeq

theorem Kept.askWaitOver {z s : State} (hz : Kept z s) :
    Kept z (askWaitOver s) := by
  unfold Machine.askWaitOver
  dsimp only
  with_reducible repeat' first
      | exact hz | apply Kept.askUnsuccessful | apply Kept.foundRow | apply Kept.setMember
      | apply Kept.ite

theorem Kept.watchGapOver {z s : State} (hz : Kept z s) :
    Kept z (watchGapOver s) := by
  unfold Machine.watchGapOver
  with_reducible repeat' first | exact hz | apply Kept.stopSeries | apply Kept.endWatch | apply Kept.ite

theorem Kept.claimAgeOver {z s : State} (hz : Kept z s) :
    Kept z (claimAgeOver s) := by
  unfold Machine.claimAgeOver
  with_reducible repeat' first
      | exact hz | apply Kept.withdraw | apply Kept.stopClaimAge | apply Kept.claimEmptied
      | apply Kept.setClaim | split

end Sys2Proof.Machine
end

