-- ==== Sys2Proof/Laws/Types.lean ====
section
/-! SUPPORT. The small lemmas of the per-pool values and of the codes of 10.5. -/

namespace Sys2Proof.Machine

/-- What holds of the three pools holds of every pool. -/
theorem Pool.forall_of {P : Pool → Prop} (s : P .surge) (l : P .load) (f : P .feed) : ∀ p, P p
  | .surge => s
  | .load => l
  | .feed => f

@[simp] theorem PerPool.get_set_self {α : Type} (x : PerPool α) (p : Pool) (v : α) : (x.set p v).get p = v := by
  cases p <;> rfl

@[simp] theorem PerPool.get_set_ne {α : Type} (x : PerPool α) {p q : Pool} (v : α) (h : q ≠ p) :
    (x.set p v).get q = x.get q := by
  cases p <;> cases q <;> first | rfl | exact absurd rfl h

@[simp] theorem PerPool.get_map {α β : Type} (f : α → β) (x : PerPool α) (p : Pool) :
    (x.map f).get p = f (x.get p) := by cases p <;> rfl

@[simp] theorem PerPool.get_ofFun {α : Type} (f : Pool → α) (p : Pool) : (PerPool.ofFun f).get p = f p := by
  cases p <;> rfl

@[simp] theorem PerPool.get_all {α : Type} (v : α) (p : Pool) : (PerPool.all v).get p = v := by cases p <;> rfl

/-- Two per-pool values that agree in every pool are equal. -/
theorem PerPool.ext_get {α : Type} {x y : PerPool α} (h : ∀ p, x.get p = y.get p) : x = y := by
  cases x; cases y
  simpa [PerPool.get] using ⟨h .surge, h .load, h .feed⟩

@[simp] theorem Pool.ofCode_code (p : Pool) : Pool.ofCode p.code = some p := by cases p <;> rfl

@[simp] theorem NightState.ofCode_code (s : NightState) : NightState.ofCode s.code = some s := by cases s <;> rfl

@[simp] theorem NightAction.ofCode_code (a : NightAction) : NightAction.ofCode a.code = some a := by cases a <;> rfl

@[simp] theorem ShownState.ofCode_code (s : ShownState) : ShownState.ofCode s.code = some s := by cases s <;> rfl

/-- R32: a kind added to a marks set is in it, and takes nothing out of it. -/
theorem MarkSet.has_add (m : MarkSet) (k j : MarkKind) : (m.add k).has j = (m.has j || decide (j = k)) := by
  cases k <;> cases j <;> simp [MarkSet.add, MarkSet.has, MarkSet.single, MarkKind.index]

end Sys2Proof.Machine
end

