-- ==== Sys2Proof/Laws/Ops.lean ====
section
/-! SUPPORT. What each shared operation over the queue, the ages, the roster, EVENTS and the bus does, once. -/

namespace Sys2Proof.Machine

/-! ## The queue (R20 to R23) -/

@[simp] theorem Queue.get_set_self (q : Queue) (src : Source) (x : Slot) : (q.set src x).get src = x := by
  cases src <;> rfl

@[simp] theorem Queue.get_set_ne (q : Queue) {src o : Source} (x : Slot) (h : o ≠ src) :
    (q.set src x).get o = q.get o := by
  cases src <;> cases o <;> first | rfl | exact absurd rfl h

@[simp] theorem slot_setSlot_self (s : State) (src : Source) (x : Slot) : (s.setSlot src x).slot src = x := by
  simp [State.slot, State.setSlot]

@[simp] theorem slot_setSlot_ne (s : State) {src o : Source} (x : Slot) (h : o ≠ src) :
    (s.setSlot src x).slot o = s.slot o := by
  simp [State.slot, State.setSlot, h]

/-- R21: a placing fills an EMPTY slot with a fresh frame. -/
theorem place_empty {s : State} {src : Source} (b : Body) (h : s.slot src = .empty) :
    place src b s = s.setSlot src (fresh b) := by
  unfold place; rw [h]

/-- R21: an occupied slot refuses the placing. -/
theorem place_occupied {s : State} {src : Source} (b : Body) (h : s.slot src ≠ .empty) : place src b s = s := by
  unfold place; split
  · exact absurd ‹_› h
  · rfl
  · rfl

/-- R23: a WAITING slot is EMPTY after a withdrawal. -/
theorem withdraw_waiting {s : State} {src : Source} {q : Queued} (h : s.slot src = .waiting q) :
    withdraw src s = s.setSlot src .empty := by
  unfold withdraw; rw [h]

/-- R23: any other slot is left as it is. -/
theorem withdraw_other {s : State} {src : Source} (h : (s.slot src).isWaiting = false) : withdraw src s = s := by
  unfold withdraw; split
  · rename_i hq; rw [hq] at h; simp [Slot.isWaiting] at h
  · rfl
  · rfl

/-- R20: a placing and a withdrawal leave every other slot as it is. -/
theorem place_slot_ne {s : State} {src o : Source} (b : Body) (h : o ≠ src) :
    (place src b s).slot o = s.slot o := by
  unfold place; split <;> simp [h]

theorem withdraw_slot_ne {s : State} {src o : Source} (h : o ≠ src) : (withdraw src s).slot o = s.slot o := by
  unfold withdraw; split <;> simp [h]

/-- R8: the SENDING source is one whose slot is SENDING. -/
theorem sendingSource_isSending {s : State} {src : Source} (h : s.sendingSource = some src) :
    (s.slot src).isSending = true := by
  have := List.find?_some h
  simpa [State.slot] using this

/-- R8: with no SENDING source no slot is SENDING. -/
theorem no_sendingSource {s : State} (h : s.sendingSource = none) (src : Source) :
    (s.slot src).isSending = false := by
  have := List.find?_eq_none.mp h src (by cases src <;> decide)
  simpa [State.slot] using this

/-! ## Roster and ages (R32, R35) -/

@[simp] theorem rosterModify_length (roster : List Entry) (n : Nat) (f : Entry → Entry) :
    (rosterModify roster n f).length = roster.length := by
  cases n <;> simp [rosterModify]

@[simp] theorem resetAge_length (ages : List Nat) (n : Nat) : (resetAge ages n).length = ages.length := by
  cases n <;> simp [resetAge]

@[simp] theorem ageBy_length (ms : Nat) (ages : List Nat) : (ageBy ms ages).length = ages.length := by simp [ageBy]

@[simp] theorem passSecond_length (ages : List Nat) : (passSecond ages).length = ages.length := by simp [passSecond]

@[simp] theorem ageMs_length (ages : List Nat) : (ageMs ages).length = ages.length := by
  unfold ageMs; split <;> simp

/-- R35: an age stops at 65535 s. -/
theorem ageBy_le {ms age : Nat} {ages : List Nat} (h : age ∈ ageBy ms ages) : age ≤ Config.maxHeardAge * 1000 := by
  obtain ⟨a, _, rfl⟩ := List.mem_map.mp h
  exact Nat.min_le_right _ _

/-- R35: what the ages read after some milliseconds. -/
theorem heardMs_ageBy (ms : Nat) (ages : List Nat) (n : Nat) (h1 : 1 ≤ n) (h2 : n ≤ ages.length) :
    heardMs (ageBy ms ages) n = min (heardMs ages n + ms) (Config.maxHeardAge * 1000) := by
  cases n with
  | zero => omega
  | succ k =>
    have hk : k < ages.length := by omega
    simp [heardMs, ageBy, hk]

/-- R35: no age passes a whole second before the moment that untilSecond gives. -/
theorem untilSecond_le {ages : List Nat} {age : Nat} (h : age ∈ ages) : untilSecond ages ≤ 1000 - age % 1000 := by
  have most : age % 1000 ≤ ages.foldr (fun age most => max (age % 1000) most) 0 := by
    induction ages with
    | nil => exact absurd h List.not_mem_nil
    | cons a rest ih =>
      rcases List.mem_cons.mp h with rfl | hr
      · exact Nat.le_max_left _ _
      · exact Nat.le_trans (ih hr) (Nat.le_max_right _ _)
  unfold untilSecond
  omega

/-- R32: the entry of the station whose entry is changed. -/
theorem rosterEntry_modify_self (roster : List Entry) (n : Nat) (f : Entry → Entry) (h1 : 1 ≤ n)
    (h2 : n ≤ roster.length) : rosterEntry (rosterModify roster n f) n = f (rosterEntry roster n) := by
  cases n with
  | zero => omega
  | succ k =>
    have hk : k < roster.length := by omega
    simp [rosterModify, rosterEntry, hk]

/-- R32: every other entry is as it was. -/
theorem rosterEntry_modify_ne (roster : List Entry) {n m : Nat} (f : Entry → Entry) (h : m ≠ n) :
    rosterEntry (rosterModify roster n f) m = rosterEntry roster m := by
  cases n with
  | zero => rfl
  | succ k =>
    cases m with
    | zero => rfl
    | succ j =>
      have : k ≠ j := by omega
      simp [rosterModify, rosterEntry, this]

/-! ## EVENTS (R169, R170) -/

@[simp] theorem raise_pending_self (e : Event) (s : State) : (raise e s).isPending e = true := by
  cases e <;> simp [raise, State.isPending, Event.bit, Event.place]

@[simp] theorem raise_pending_ne {e o : Event} (s : State) (h : o ≠ e) :
    (raise e s).isPending o = s.isPending o := by
  cases e <;> cases o <;> first | exact absurd rfl h | simp [raise, State.isPending, Event.bit, Event.place]

/-! ## The bus (R155) -/

/-- R155: when a byte written to a register is taken. -/
theorem takesWrite_iff (s : State) (r : Register) :
    s.takesWrite r = true ↔ s.loader.state ≠ .reading ∧ s.link.writing = true ∧ s.link.pointer = r := by
  simp [State.takesWrite, State.answering, and_assoc]

/-- R155: a byte that is taken has its effect and is acknowledged. -/
theorem busWrite_taken {r : Register} {effect : State → State} {s : State} (h : s.takesWrite r = true) :
    busWrite r effect s = busTaken (effect s) := by simp [busWrite, h]

/-- R155: a byte that is not taken has none. -/
theorem busWrite_silent {r : Register} {effect : State → State} {s : State} (h : s.takesWrite r = false) :
    busWrite r effect s = busSilent s := by simp [busWrite, h]

/-- R172: the first command of a write transaction is taken. -/
theorem busCommand_taken {effect : State → State} {s : State} (h : s.takesWrite .command = true)
    (first : s.link.commandDone = false) :
    busCommand effect s = busTaken (effect (s.setLink { s.link with commandDone := true })) := by
  simp [busCommand, busWrite, h, first]

/-- R155: a further byte is acknowledged and ignored. -/
theorem busCommand_ignored {effect : State → State} {s : State} (h : s.takesWrite .command = true)
    (done : s.link.commandDone = true) : busCommand effect s = busTaken s := by
  simp [busCommand, busWrite, h, done]

/-- R155: a byte that is not taken has no effect. -/
theorem busCommand_silent {effect : State → State} {s : State} (h : s.takesWrite .command = false) :
    busCommand effect s = busSilent s := by
  simp [busCommand, busWrite, h]

@[simp] theorem endWrite_answersAt (s : State) (a : BitVec 7) : (endWrite s).answersAt a = s.answersAt a := rfl

/-- R155: a byte read at the port's address comes from the register the pointer names. -/
theorem busRead_answered {a : BitVec 7} {position : Nat} {s : State} (h : s.answersAt a = true) :
    busRead a position s = readRegister s.link.pointer position (endWrite s) := by
  have h1 : (endWrite s).answersAt a = true := h
  simp only [busRead, h1, if_true]
  rfl

/-- R155: at another address, or in LOADING, nothing is answered and no write transaction is left. -/
theorem busRead_silent {a : BitVec 7} {position : Nat} {s : State} (h : s.answersAt a = false) :
    busRead a position s = busSilent (endWrite s) := by
  have h1 : (endWrite s).answersAt a = false := h
  simp [busRead, h1]

end Sys2Proof.Machine
end

