-- ==== Sys2Proof/Tests/Slice0.lean ====
section
/-! SUPPORT. The model's own tests: ill-formed commands, worked values of the manual, one step of each family, and for
every statement with hypotheses a state and operands that meet them, clause by clause. -/

namespace Sys2Proof.Tests

set_option Elab.async false

open Sys2Proof.Machine

/-! ## Small states -/

/-- Station 3, with two leads that are used (R115). -/
def settings : Settings :=
  { station := 3, rowTag := 0x2A51, cost := ⟨6, 2, 1⟩, retryLimit := 1, gateMode := .afterAll, awaited := .surgeEnd
    leads := [1, 3, 40, 0], compare := 500, participates := true }

/-- Night 7 is RUNNING with free units in every pool; station 9 holds 2 units of LOAD. -/
def rep : Replica :=
  { night := { NightRecord.cold with id := 7, state := .running, deadline := 300, capacities := ⟨12, 9, 4⟩ }
    pools := ⟨{ PoolRecord.cold with capacity := 12 },
      { capacity := 9, inUse := 2, generation := 0xFFFF, reserver := 0, reserved := 0 },
      { PoolRecord.cold with capacity := 4 }⟩
    roster := rosterModify Replica.cold.roster 9 fun e => { e with presence := .present, holds := ⟨0, 2, 0⟩ } }

/-- Station 3, IN_SYNC, on the bus at 0x10. -/
def base : State :=
  (((State.reset.setLoader { state := .valid, readLimit := .stopped, image := [] }).setCfg settings).setMember
    { Member.cold with state := .inSync }).setReplica rep |>.setLink { LinkPort.cold with address := 0x10 }

def inState (m : MembershipState) (s : State) : State := s.setMember { s.member with state := m }
def inNight (n : NightState) (s : State) : State :=
  s.setReplica { s.replica with night := { s.replica.night with state := n } }
def inSeq (x : SeqState) (s : State) : State := s.setSeq { s.seq with state := x, night := 7 }
def power (s : State) : State := s.setPins { s.pins with powerGood := true }
def withPool (p : Pool) (x : PoolRecord) (s : State) : State :=
  s.setReplica { s.replica with pools := s.replica.pools.set p x }
def asking (r : Request) (s : State) : State := s.setClaim { s.claim with request := some r }

/-- A frame with the counts at their limits. -/
def tired (b : Body) : Queued := { body := b, loss := 63, veto := 15 }
def claimFrame : Body := .claim 1 2 0xFFFF 0
def loadRequest : Request := { pool := .load, units := 2, patience := 3, restore := false, state := .ready }

/-- This station is sending its CLAIM. -/
def sendingClaim : State :=
  (asking loadRequest base).setSlot .claim (.sending (tired claimFrame) 0xC003 false)

/-- In a write transaction with the pointer at a register. -/
def writingTo (x : Register) (s : State) : State := s.setLink { s.link with pointer := x, writing := true }

/-- With the pointer at a register, and no write transaction under way. -/
def pointing (x : Register) (s : State) : State := s.setLink { s.link with pointer := x }

/-- The groups of a frame that station 9 sends. -/
def sent (cls : Nat) (b : Body) : LineFrame := .heard (wireGroups (contentionField cls 63 9) b)

/-- The state after a command; every command answers one. -/
def after (c : Instr) (s : State) : State :=
  match exec c s with
  | .next t => t
  | .fault _ => s
  | .refused _ => s

/-! ## Ill-formed commands -/

theorem test_illFormed_block : (Instr.configReadDone (List.replicate 19 0)).wellFormed = false := by decide +kernel
theorem test_illFormed_longBlock : (Instr.configReadDone (List.replicate 21 0)).wellFormed = false := by decide +kernel
theorem test_illFormed_frame :
    (Instr.frameDelivered (.heard ((wireGroups 0xC03F .ask).drop 1))).wellFormed = false
      ∧ (Instr.frameVetoed (.heard [])).wellFormed = false := by decide +kernel
theorem test_illFormed_message : (Instr.orderMessage ⟨true, []⟩).wellFormed = false := by decide +kernel
theorem test_illFormed_command :
    (Instr.unknownCommand 1 0).wellFormed = false ∧ (Instr.unknownCommand 2 0).wellFormed = false := by decide +kernel
theorem test_wellFormed :
    (Instr.frameDelivered (sent 3 claimFrame)).wellFormed = true ∧ (Instr.unknownCommand 3 0).wellFormed = true
      ∧ (Instr.configReadDone (List.replicate 20 0)).wellFormed = true := by decide +kernel

/-! ## Values the manual works out -/

/-- R179: the check over the bytes 0x31 to 0x39. -/
theorem test_crc : crc [0x31, 0x32, 0x33, 0x34, 0x35, 0x36, 0x37, 0x38, 0x39] = 0x29B1 := by decide +kernel

/-- R6: the contention fields of the manual's examples. -/
theorem test_contentionFields :
    contentionField 2 62 4 = 48644#16 ∧ contentionField 3 60 7 = 64519#16 ∧ contentionField 3 63 12 = 65292#16 := by
  decide +kernel

/-- The table gives no row any bits, and no word changes the queue (log 33). -/
theorem test_noWord (s : State) (n w : Nat) : decodeTableWord n w = none ∧ s.withFetchWord n w = s := ⟨rfl, rfl⟩

/-- R2: a group's spacer is the opposite of its last bit. -/
theorem test_spacers : (sentGroup 0x01).spacer = .dominant ∧ (sentGroup 0xFE).spacer = .recessive := by decide +kernel

/-- The valid block of these tests: station 40, address 0x77, costs 15, 1 and 4, AFTER_ALL, IMAGED. -/
def validBlock : List Byte :=
  let b : List Byte := [0xA7, 40, 0x2A, 0x51, 0x77, 15, 1, 4, 3, 2, 4, 0, 40, 1, 2, 0x03, 0xE8, 3]
  b ++ bytes16 (crc b)

/-- An order message for row 0x2A51 with action NEW, order 8, start 0, deadline 300, grace 10. -/
def newMessage : List Byte :=
  let b : List Byte := [0x2A, 0x51, 0, 8, 1, 0xCA, 0xFE, 0, 1, 0, 0, 0x01, 0x2C, 10, 12, 9, 4]
  [0xB5, 0x4E] ++ b ++ bytes16 (crc b)

/-! ## One step of each family -/

theorem test_configuration : (after (.configReadDone validBlock) State.reset).cfg.leads = [0, 40, 1, 2]
    ∧ (after (.configReadDone validBlock) State.reset).member.state = .joining := by decide +kernel
theorem test_attempt : ((after .attemptStart (base.setSlot .ask (fresh .ask))).slot .ask)
    = .sending { body := .ask, loss := 0, veto := 0 } 0xBF03 false := by decide +kernel
theorem test_ownClaimGranted : (after (.frameDelivered .own) sendingClaim).claim.ownHolds = ⟨0, 2, 0⟩
    ∧ (after (.frameDelivered .own) sendingClaim).replica.pools.load
      = { capacity := 9, inUse := 4, generation := 0, reserver := 0, reserved := 0 } := by decide +kernel
theorem test_ownClaimStale : ((after (.frameDelivered .own)
    (withPool .load { rep.pools.load with generation := 5 } sendingClaim)).claim.request.map Request.patience)
      = some 4 := by decide +kernel
theorem test_peerMark :
    (((after (.frameDelivered (sent 3 (.mark 7 0 1 5 0 1 0))) base).replica.entry 9).marks.has .surgeEnd) = true := by
  decide +kernel
theorem test_orderMessage : (after (.orderMessage ⟨true, newMessage⟩) (inNight .ended base)).slot .order
    = fresh (.order 8 0xCAFE0001 0 300 10 12 9 4) := by decide +kernel
/-- R71: after the end of LOADING the bytes before the first silence are no message. -/
theorem test_cutMessage :
    (after (.configReadDone validBlock) State.reset).night.awaitsSilence = true
      ∧ (after (.orderMessage ⟨false, newMessage⟩) (inNight .ended base)).night.accepted = 0 := by decide +kernel

/-- R35: station 9 was heard 300 ms after station 1; the next whole second is station 1's. -/
theorem test_agesPassTheirOwnSecond :
    let ages := ((List.replicate 40 0).set 0 900).set 8 600
    heardAge (passSecond ages) 1 = 1 ∧ heardAge (passSecond ages) 9 = 0
      ∧ heardAge (passSecond (passSecond ages)) 9 = 1 := by decide +kernel

/-- R17, R22: a merge that names the same units sets the veto count to 0 and keeps the loss count. -/
theorem test_mergeOfTheSameUnits :
    (placeRelease ⟨0, 2, 0⟩ (base.setSlot .release (.waiting (tired (.release 0 2 0))))).slot .release
      = .waiting { body := .release 0 2 0, loss := 63, veto := 0 } := by decide +kernel

/-- R114: a grant to a peer that an install replays leaves a suspended request's patience. -/
theorem test_replayKeepsPatience :
    (replayFrame { sender := 9, body := .claim 1 1 0xFFFF 0, own := false, lastRun := 1, age := 0 }
      (withPool .load { rep.pools.load with inUse := 0 } (inState .collecting (asking loadRequest (base.setReplica
        { rep with roster := Replica.cold.roster }))))).claim.request = some loadRequest := by decide +kernel

theorem test_sixteenthVeto : (after (.frameVetoed .own) sendingClaim).isPending .lineFault = true := by decide +kernel
theorem test_report : (after (.dataWrite 0)
    (writingTo .data ((power (inSeq .imaging base)).setLink { base.link with
      view := 2, index := 2, report := [0x03, 0xE8] }))).seq.progress = 1000 := by decide +kernel
theorem test_maskRead : (after (.eventsRead 0x10 1) (pointing .eventMask base)).link.busByte = some 0x1F
    ∧ (after (.eventsRead 0x10 2) (pointing .eventMask base)).link.busByte = some 0xFF := by decide +kernel
theorem test_identityView : base.viewBytes 0 = [0xB0, 0x40, 0x01, 3, 0x2A, 0x51, 1, 0x10, 0, 0] := by decide +kernel
theorem test_idle : step base = .next (tick base)
    ∧ tick (base.setNight { base.night with start := .running 2 })
      = (base.setNight { base.night with start := .running 1 }).setLastHeard (List.replicate 40 1) :=
  ⟨rfl, by decide +kernel⟩
/-- R35: an idle millisecond leaves a whole second to its LAST_HEARD_TICK. -/
theorem test_idleAtASecond : (tick (base.setLastHeard (List.replicate 40 999))).lastHeard = List.replicate 40 999
    ∧ passSecond (List.replicate 40 999) = List.replicate 40 1000 := by decide +kernel

/-! ## The hypotheses of the statements: the machine and the invariants -/

theorem hyp_StepRunsFrontCommand :
    (base.setPending [.probe 1, .pressEnd]).pending = .probe 1 :: [.pressEnd] := rfl

theorem hyp_BlocksWrittenOnlyByTheirCauses :
    exec (.probe 5) base = .next (after (.probe 5) base) ∧ mayWriteReplica (.probe 5) = false
      ∧ mayWriteAges (.probe 5) = false ∧ mayWriteSettings (.probe 5) = false ∧ mayWritePins (.probe 5) = false
      ∧ (∀ f, Instr.probe 5 ≠ .frameDelivered f) ∧ mayWriteReplica (.unknownCommand 3 0) = false
      ∧ ((after .attemptStart (base.setSlot .claim (fresh claimFrame))).slot .claim).isSending = true :=
  ⟨rfl, rfl, rfl, rfl, rfl, nofun, rfl, by decide +kernel⟩

/-- Every count of the line at its limit, and a veto of this station's own frame at the front of the queue. -/
def lineAtLimits : State :=
  (sendingClaim.setRli { sendingClaim.rli with vetoRun := 7, collisions := 3 }).setPending [.frameVetoed .own]

theorem hyp_LineRangesKept : LineRanges lineAtLimits ∧ ∃ t, step lineAtLimits = .next t :=
  ⟨⟨by intro src; cases src <;> first | exact True.intro | exact And.intro (by decide) (by decide),
    by decide +kernel, by decide, by decide⟩, _, rfl⟩

def bufferEntry : BufferEntry := { sender := 9, body := .ask, own := false, lastRun := 20, age := 4 }

/-- A full buffer, ages at their limit, and a series of which run 21 alone is missing. -/
def tablesAtLimits : State :=
  ((inState .collecting base).setLastHeard (List.replicate 40 65535000)).setMember
    { Member.cold with
      state := .collecting, buffer := List.replicate 16 bufferEntry, seriesGap := .running 1000
      adopted := some { answerer := 9, next := 21, asker := 3, run0 := run0Payload rep.night NightUnit.cold
                        runs := (List.range 20).map fun k => runPayload ⟨rep.pools, rep.roster⟩ (k + 1) } }

theorem hyp_TableRangesKept :
    TableRanges tablesAtLimits ∧ ∃ t, step (tablesAtLimits.setPending [.seriesGapExpiry]) = .next t :=
  ⟨by
    constructor
    case runs => intro a h; cases h; decide +kernel
    all_goals decide +kernel, _, rfl⟩

/-- The selectors, the report, EVENTS, progress and the swallowed presses at their limits. -/
def linkAtLimits : State :=
  ((base.setLink { base.link with
    view := 6, index := 6, station := 40, report := [3, 232], events := 0x3F1F, mask := 0x1F }).setSeq
    { base.seq with progress := 1000, swallowed := 255, press := .held }).setPending [.pressEnd]

theorem hyp_LinkRangesKept : LinkRanges linkAtLimits ∧ ∃ t, step linkAtLimits = .next t :=
  ⟨by constructor <;> decide, _, rfl⟩

/-- The fourth attempt of a station whose retry limit is 3, after three failed ones. -/
def lastAttempt : State :=
  ((power (inSeq .booting base)).setCfg { settings with retryLimit := 3 }).setSeq
    { (inSeq .booting base).seq with
      attempt := 4, progress := 1000, go := true, progressTimer := .running 600000
      outcome := { OutcomeRecord.fresh 7 with
        used := 4, causes := [.noPowerGood, .powerLost, .noFirmware] } }

theorem attemptLaw_lastAttempt : AttemptLaw lastAttempt := by constructor <;> decide

theorem hyp_AttemptLawKept :
    (AttemptLaw lastAttempt ∧ ∃ t, step (lastAttempt.setPending [.progressTimerExpiry]) = .next t)
      ∧ NewestInSet (base.setGate { base.gate with emitted := 0x80, newest := some .localUse }) :=
  ⟨⟨attemptLaw_lastAttempt, _, rfl⟩, by intro k h; cases h; decide⟩

theorem inUseLaw_rep : rep.inUseLaw :=
  ⟨by decide +kernel, Pool.forall_of (by decide +kernel) (by decide +kernel) (by decide +kernel)⟩

theorem reservationLaw_rep : rep.reservationLaw :=
  Pool.forall_of (.inl (by decide)) (.inl (by decide)) (.inl (by decide))

theorem hyp_PoolLawsKeptInSync : base.InSync ∧ PoolLaws base ∧
    ∃ t, step (base.setPending [.attemptStart]) = .next t ∧ t.InSync :=
  ⟨rfl, fun _ => ⟨by decide, inUseLaw_rep, reservationLaw_rep⟩, _, rfl, by decide⟩

/-! ## The formats -/

theorem hyp_ReceiverReadsWhatIsSent :
    (Body.mark 7 0xFF 0 5 1000 4 0).Sendable ∧ kindClass 0x31 = some 3
      ∧ (Body.run 0 21 (runPayload ⟨rep.pools, rep.roster⟩ 21)).Sendable ∧ kindClass 0x42 = some 0
      ∧ (Body.unknown 0xFF (List.replicate 24 0)).Sendable ∧ kindClass 0xFF = none
      ∧ receive (wireGroups (contentionField 3 63 40) (.mark 7 0xFF 0 5 1000 4 0))
        = .whole 40 (.mark 7 0xFF 0 5 1000 4 0) :=
  ⟨trivial, by decide, by show runLength _ = _; decide +kernel, by decide, by
    show _ ∧ _; decide +kernel, by decide, by decide +kernel⟩

theorem hyp_FramesAsSent : 45 + 9 < (frameLevels (wireGroups 0xBF03 .ask)).length := by decide +kernel

/-- A replica whose fields are at the limits of their layouts. -/
def wideReplica : Replica :=
  { rep with
    night := { rep.night with start := 65535, deadline := 65535, grace := 255, relayer := 40 }
    roster := rosterModify rep.roster 40 fun e => { e with progress := 65535, attempt := 255, holds := ⟨255, 0, 0⟩ } }

theorem hyp_SeriesCarriesTheReplica :
    wideReplica.night.capacities = wideReplica.pools.map PoolRecord.capacity
      ∧ wideReplica.night.start < 65536 ∧ wideReplica.night.grace < 256
      ∧ (∀ p, (wideReplica.pools.get p).capacity < 256 ∧ (wideReplica.pools.get p).inUse < 256
        ∧ (wideReplica.pools.get p).reserver < 256 ∧ (wideReplica.pools.get p).reserved < 256)
      ∧ wideReplica.roster.length = 40
      ∧ (∀ e ∈ wideReplica.roster, e.progress < 65536 ∧ e.attempt < 256 ∧ ∀ p, e.holds.get p < 256) :=
  ⟨by decide, by decide, by decide, Pool.forall_of (by decide) (by decide) (by decide), by decide +kernel,
    fun e h => by
      have : (e.progress < 65536 ∧ e.attempt < 256) ∧ e.holds.surge < 256 ∧ e.holds.load < 256
          ∧ e.holds.feed < 256 := by
        revert e; decide +kernel
      exact ⟨this.1.1, this.1.2, Pool.forall_of this.2.1 this.2.2.1 this.2.2.2⟩⟩

/-! ## The applier -/

theorem hyp_CommonChangeOfEveryFrame :
    rep.roster.length = 40 ∧ ((commonChange rep 40).entry 40).presence = .present
      ∧ (applyFrame rep 1 .ask).2 = .noPart := by decide +kernel

/-- Every line of R99 is reached: each of the six tests fails on some CLAIM, and one passes all. -/
theorem hyp_ClaimJudgedBySixTests :
    (applyFrame rep 40 (.claim 3 2 0xFFFF 0)).2 = .refused ∧ (applyFrame rep 40 (.claim 1 16 0xFFFF 0)).2 = .refused
      ∧ (applyFrame (inNight .held base).replica 40 (.claim 0 2 0 1)).2 = .refused
      ∧ (applyFrame (inNight .held base).replica 40 (.claim 1 2 0xFFFF 1)).2 = .made
      ∧ (applyFrame rep 9 (.claim 1 2 0xFFFF 0)).2 = .refused ∧ (applyFrame rep 1 (.claim 1 2 0 0)).2 = .stale
      ∧ (applyFrame (withPool .load { rep.pools.load with reserver := 5, reserved := 7 } base).replica 1
          (.claim 1 1 0xFFFF 0)).2 = .blocked
      ∧ (applyFrame rep 1 (.claim 1 8 0xFFFF 0)).2 = .short ∧ (applyFrame rep 1 (.claim 1 7 0xFFFF 0)).2 = .made := by
  decide +kernel

theorem hyp_ParkAndUnparkRules :
    (applyFrame rep 3 (.park 3 1)).2 = .refused ∧ (applyFrame rep 3 (.park 2 16)).2 = .refused
      ∧ (applyFrame (inNight .pending base).replica 3 (.park 2 1)).2 = .busy ∧ (applyFrame rep 9 (.park 1 1)).2 = .busy
      ∧ (applyFrame rep 40 (.park 2 15)).2 = .made ∧ (applyFrame rep 3 (.unpark 3)).2 = .void
      ∧ (applyFrame rep 3 (.unpark 2)).2 = .void
      ∧ (applyFrame (withPool .feed { rep.pools.feed with reserver := 3, reserved := 1 } base).replica 3
          (.unpark 2)).2 = .made := by decide +kernel

theorem hyp_ReleaseZeroesExactHolds : rep.inUseLaw
    ∧ (applyFrame rep 9 (.release 1 2 0)).2 = .made ∧ (applyFrame rep 9 (.release 0 1 0)).2 = .void :=
  ⟨inUseLaw_rep, by decide +kernel⟩

theorem hyp_ReclaimStripsSilentTarget : rep.inUseLaw
    ∧ (applyFrame rep 3 (.reclaim 9 0)).2 = .made ∧ (applyFrame rep 3 (.reclaim 9 1)).2 = .void
    ∧ (applyFrame rep 9 (.reclaim 9 0)).2 = .void ∧ (applyFrame rep 3 (.reclaim 41 0)).2 = .void :=
  ⟨inUseLaw_rep, by decide +kernel⟩

theorem hyp_MarkWritesItsSendersEntry :
    (applyFrame rep 40 (.mark 7 0xFF 0x81 12 1000 4 0)).2 = .made
      ∧ (applyFrame rep 40 (.mark 7 7 0x80 12 1000 4 0)).2 = .made
      ∧ (applyFrame rep 40 (.mark 7 7 0x7F 12 1000 4 0)).2 = .void
      ∧ (applyFrame rep 40 (.mark 6 0xFF 0 12 0 0 0)).2 = .void
      ∧ (applyFrame rep 40 (.mark 7 0xFF 0 0 0 0 0)).2 = .void
      ∧ (applyFrame rep 40 (.mark 7 0xFF 0 1 1001 0 0)).2 = .void
      ∧ (applyFrame rep 40 (.mark 7 0xFF 0 1 0 5 0)).2 = .void := by decide +kernel

theorem hyp_OrderWritesTheNight :
    (applyFrame (inNight .ended base).replica 40 (.order 8 1 720 721 120 1 2 3)).2 = .made
      ∧ (applyFrame (inNight .idle base).replica 40 (.order 0x8006 1 0 900 0 1 2 3)).2 = .made
      ∧ (applyFrame (inNight .idle base).replica 40 (.order 0x8007 1 0 900 0 1 2 3)).2 = .void
      ∧ (applyFrame rep 40 (.order 8 1 0 900 0 1 2 3)).2 = .void
      ∧ (applyFrame (inNight .idle base).replica 40 (.order 8 1 10 10 0 1 2 3)).2 = .void
      ∧ (applyFrame (inNight .idle base).replica 40 (.order 8 1 0 900 121 1 2 3)).2 = .void := by decide +kernel

theorem hyp_NightFrameMovesTheNight :
    (applyFrame rep 1 (.night 7 1 2 4)).2 = .made ∧ (applyFrame rep 1 (.night 7 2 2 3)).2 = .made
      ∧ (applyFrame (inNight .held base).replica 1 (.night 7 3 3 1)).2 = .made
      ∧ (applyFrame (inNight .held base).replica 1 (.night 7 3 3 2)).2 = .void
      ∧ (applyFrame rep 1 (.night 6 1 2 4)).2 = .void ∧ (applyFrame rep 1 (.night 7 1 1 4)).2 = .void
      ∧ (applyFrame rep 1 (.night 7 5 2 4)).2 = .void ∧ (applyFrame rep 1 (.night 7 4 2 5)).2 = .made := by
  decide +kernel

theorem hyp_NewerOrderIds :
    newer 0x8006 7 = true ∧ newer 0x8007 7 = false ∧ newer 7 7 = false ∧ newer 6 7 = false ∧ newer 9 0 = true
      ∧ newer 1 0xFFFF = true := by decide

theorem hyp_GenerationCountsPoolChanges : rep.inUseLaw ∧ rep.reservationLaw
    ∧ ((applyFrame rep 40 (.claim 1 7 0xFFFF 0)).1.entry 40).holds.load ≠ (rep.entry 40).holds.load
    ∧ (applyFrame rep 40 (.claim 1 7 0xFFFF 0)).1.pools.surge = rep.pools.surge :=
  ⟨inUseLaw_rep, reservationLaw_rep, by decide +kernel⟩

theorem hyp_ApplierKeepsPoolLaws : 1 ≤ 40 ∧ rep.inUseLaw ∧ rep.reservationLaw :=
  ⟨by decide, inUseLaw_rep, reservationLaw_rep⟩

/-! ## The configuration -/

theorem accepted_validBlock : BlockAccepted validBlock := by
  constructor
  case leads =>
    intro i h1 h2
    have : i = 11 ∨ i = 12 ∨ i = 13 ∨ i = 14 := by omega
    rcases this with rfl | rfl | rfl | rfl <;> decide +kernel
  all_goals decide +kernel

theorem hyp_ConfigurationIsJudged :
    State.reset.loader.state = .reading ∧ validBlock.length = 20 ∧ BlockAccepted validBlock
      ∧ ¬ BlockAccepted (validBlock.set 8 4) ∧ State.reset.loader.readLimit.isRunning = true := by
  refine ⟨rfl, by decide +kernel, accepted_validBlock, ?_, rfl⟩
  intro h
  exact absurd h.retry (by decide +kernel)

/-! ## The row line -/

/-- This station sends a frame of one source in a membership state. -/
def sending (src : Source) (q : Queued) (cleared : Bool) (m : MembershipState) : State :=
  (inState m base).setSlot src (.sending q 0xBF03 cleared)

def plain (b : Body) : Queued := { body := b, loss := 0, veto := 0 }

theorem hyp_AttemptStartSendsLowestField :
    settings.station ≤ 40 ∧ base.sendingSource = none ∧ base.rli.stuck = false
      ∧ mayContend .joining .mark = true
      ∧ (inState .joining (base.setSlot .mark (fresh base.markBody))).slot .mark = .waiting (plain base.markBody)
      ∧ sendingClaim.sendingSource ≠ none
      ∧ (∀ src q, (inState .isolated (base.setSlot .mark (fresh base.markBody))).slot src = .waiting q →
          mayContend .isolated src = false) :=
  ⟨by decide, by decide, rfl, rfl, rfl, by decide, fun src _ _ => by cases src <;> rfl⟩

theorem hyp_LostArbitrationReturnsTheSlot :
    sendingClaim.sendingSource = some .claim
      ∧ sendingClaim.slot .claim = .sending (tired claimFrame) 0xC003 false
      ∧ sendingClaim.Quiet .claim (tired claimFrame)
      ∧ (sending .order (plain .ask) true .joining).sendingSource = some .order
      ∧ (sending .order (plain .ask) true .joining).slot .order = .sending (plain .ask) 0xBF03 true
      ∧ (sending .reclaim (plain .ask) true .joining).sendingSource = some .reclaim := by
  refine ⟨by decide, rfl, ?_, by decide, rfl, by decide⟩
  exact ⟨rfl, rfl⟩

theorem hyp_CollisionCountsAndIsolates :
    let s := sendingClaim.setRli { sendingClaim.rli with collisions := 1 }
    let u := sendingClaim.setRli { sendingClaim.rli with collisions := 2 }
    s.sendingSource = some .claim ∧ s.Quiet .claim (tired claimFrame) ∧ s.rli.collisions < 2
      ∧ u.slot .claim = .sending (tired claimFrame) 0xC003 false ∧ u.rli.collisions = 2
      ∧ u.member.state = .inSync
      ∧ (sending .order (plain .ask) true .joining).slot .order = .sending (plain .ask) 0xBF03 true
      ∧ (sending .order (plain .ask) true .joining).rli.collisions < 2 := by
  exact ⟨by decide, ⟨rfl, rfl⟩, by decide, rfl, rfl, rfl, rfl, by decide⟩

/-- A whole frame of station 9. -/
def groupsOf (cls : Nat) (b : Body) : List Group := wireGroups (contentionField cls 63 9) b

/-- The groups of an ASK of station 9 with the last spacer read recessive where it is dominant, and the reverse. -/
def lostGroups : List Group := (groupsOf 2 .ask).set 1 { byte := 9, spacer := .recessive }
def badGroups : List Group := (groupsOf 2 .ask).set 3 { byte := 0, spacer := .dominant }

def withheld (s : State) : State := s.setRli { s.rli with permission := .withheld }

theorem hyp_FaultyFrameEndsVetoed :
    base.framing = true ∧ receive lostGroups = .lost ∧ receive badGroups = .malformed ∧ base.mayVeto = true
      ∧ (withheld base).framing = true ∧ (withheld base).mayVeto = false
      ∧ (withheld (inState .collecting base)).mayVeto = false
      ∧ (withheld (inState .collecting base)).member.askCount < 4 := by decide +kernel

theorem hyp_EighthVetoEntersDesync :
    let s := base.setRli { base.rli with vetoRun := 7 }
    s.framing = true ∧ s.mayVeto = true ∧ s.rli.vetoRun = 7 ∧ s.InSync := by
  exact ⟨by decide, by decide, rfl, rfl⟩

theorem hyp_DeliveredFrameIsHandedOver :
    base.framing = true ∧ receive (groupsOf 3 claimFrame) = .whole 9 claimFrame ∧ base.InSync
      ∧ (inState .isolated base).framing = true ∧ (inState .unconfigured base).framing = true := by
  exact ⟨by decide, by decide +kernel, rfl, by decide, by decide⟩

theorem hyp_OwnFrameDelivered :
    sendingClaim.receiving = true ∧ sendingClaim.sendingSource = some .claim ∧ sendingClaim.InSync
      ∧ (sending .ask (plain .ask) false .joining).sendingSource = some .ask
      ∧ (sending .ask (plain .ask) false .joining).rli.askOwed = false := by
  exact ⟨by decide, by decide, rfl, by decide, rfl⟩

/-- The series of station 9 as laid out from the replica of these tests. -/
def runOf (k : Nat) : Body :=
  .run 3 (byteOf k) (if k = 0 then run0Payload rep.night NightUnit.cold else runPayload ⟨rep.pools, rep.roster⟩ k)

/-- A COLLECTING station of which run next is awaited. -/
def collecting (next : Nat) (buffer : List BufferEntry) : State :=
  base.setMember { Member.cold with
    state := .collecting, seriesGap := .running 500, buffer := buffer
    adopted := some { answerer := 9, next := next, asker := 3, run0 := run0Payload rep.night NightUnit.cold
                      runs := (List.range (next - 1)).map fun k => runPayload ⟨rep.pools, rep.roster⟩ (k + 1) } }

theorem hyp_JoinerCollectsASeries :
    receive (groupsOf 0 (runOf 0)) = .whole 9 (runOf 0)
      ∧ (inState .joining (base.setMember { base.member with askWait := .running 1 })).member.askWait.isRunning = true
      ∧ receive (groupsOf 0 (runOf 20)) = .whole 9 (runOf 20)
      ∧ runNumbersOk 20 (runPayload ⟨rep.pools, rep.roster⟩ 20) = true
      ∧ (collecting 20 []).framing = true ∧ (collecting 1 []).framing = true
      ∧ claimFrame.kind ≠ 0x42 ∧ (collecting 20 (List.replicate 15 bufferEntry)).member.buffer.length < 16
      ∧ (after .seriesGapExpiry (collecting 20 [])).framing = true
      ∧ (after .seriesGapExpiry (collecting 20 [])).member.state = .joining
      ∧ (after .seriesGapExpiry (collecting 20 [])).member.askWait.isRunning = false
      ∧ (after .seriesGapExpiry (collecting 20 [])).member.lateRun = .awaited 9 20 := by
  decide +kernel

/-- R60: the run that falls together with the gap's expiry is heard by the JOINING station, and the ask wait that follows
does not found the row; another run leaves the note as it was. -/
theorem test_lateRun :
    let s := after .seriesGapExpiry (collecting 20 [])
    let wait := fun k => after (.frameDelivered .own) (after .attemptStart (after (.frameDelivered (.heard
      (groupsOf 0 (runOf k)))) s))
    (wait 20).member.askWait = .running 2000 ∧ (wait 20).member.onlyAsks = false
      ∧ (after .askWaitExpiry (wait 20)).member.state = .joining ∧ (wait 21).member.onlyAsks = true := by
  decide +kernel

theorem hyp_LastRunInstallsTheReplica :
    (collecting 21 []).framing = true ∧ receive (groupsOf 0 (runOf 21)) = .whole 9 (runOf 21)
      ∧ runNumbersOk 21 (runPayload ⟨rep.pools, rep.roster⟩ 21) = true
      ∧ (collecting 21 []).member.state = .collecting ∧ (collecting 21 []).member.buffer = []
      ∧ (collecting 21 (List.replicate 16 bufferEntry)).member.state = .collecting := by decide +kernel

/-- R62, R64: the row's replica arrives whole, and the joiner is IN_SYNC. -/
theorem test_install : (after (.frameDelivered (.heard (groupsOf 0 (runOf 21)))) (collecting 21 [])).replica
    = commonChanges 9 21 rep := by decide +kernel

theorem hyp_VetoedFrameRetriesOrDrops :
    base.framing = true ∧ receive (groupsOf 2 .ask) = .whole 9 .ask
      ∧ (sending .ask (plain .ask) false .joining).receiving = true
      ∧ (sending .ask { plain .ask with veto := 14 } false .joining).Quiet .ask { plain .ask with veto := 14 }
      ∧ (sending .order (tired .ask) false .inSync).sendingSource = some .order
      ∧ (sending .mark (tired .ask) false .inSync).sendingSource = some .mark := by
  exact ⟨by decide, by decide +kernel, by decide, trivial, by decide, by decide⟩

theorem hyp_StuckLineSetAndCleared :
    base.receiving = true ∧ base.sendingSource = none ∧ sendingClaim.receiving = true
      ∧ sendingClaim.Quiet .claim (tired claimFrame)
      ∧ (after .stuckLine sendingClaim).rli.stuck = true := by
  exact ⟨by decide, by decide, by decide, ⟨rfl, rfl⟩, by decide +kernel⟩

/-! ## The order input line -/

/-- An order message for this row with this action, order id and start, deadline and grace minutes. -/
def message (row act id start deadline grace : Nat) : List Byte :=
  let b : List Byte := bytes16 (wordOf row) ++ bytes16 (wordOf id) ++ [byteOf act, 0, 0, 0, 1]
    ++ bytes16 (wordOf start) ++ bytes16 (wordOf deadline) ++ [byteOf grace, 1, 2, 3]
  [0xB5, 0x4E] ++ b ++ bytes16 (crc b)

/-- The reason a state gives a message; NONE where it accepts it. -/
def judged (m : List Byte) (s : State) : RejectReason :=
  if (after (.orderMessage ⟨true, m⟩) s).night.accepted = s.night.accepted + 1 then .none
  else (after (.orderMessage ⟨true, m⟩) s).night.lastReason

def row : Nat := 0x2A51

/-- Every line of R73 is reached, and each of the four actions is accepted somewhere. -/
theorem hyp_OrderMessageCheckedAndRelayed :
    base.orderReceiving = true ∧ (inState .unconfigured base).member.state = .unconfigured
      ∧ judged [0xB5] base = .badSync ∧ judged [0xB5, 0x4E] base = .badLength
      ∧ judged (newMessage.set 20 0) base = .badCheck ∧ judged (message 1 2 7 0 0 0) base = .wrongRow
      ∧ judged (message row 2 7 0 0 0) (inState .joining base) = .notSynced
      ∧ judged (message row 5 7 0 0 0) base = .badAction ∧ judged (message row 1 7 0 1 0) base = .notNewer
      ∧ judged (message row 1 8 0 1 0) base = .nightActive
      ∧ judged (message row 1 8 720 901 0) (inNight .ended base) = .range
      ∧ judged (message row 2 8 0 0 0) base = .wrongId ∧ judged (message row 3 7 0 0 0) base = .wrongState
      ∧ judged (message row 2 7 0 0 0) (base.setSlot .order (fresh .ask)) = .busy
      ∧ judged (message row 1 8 720 900 120) (inNight .ended base) = .none
      ∧ judged (message row 2 7 0 0 0) base = .none ∧ judged (message row 3 7 0 0 0) (inNight .held base) = .none
      ∧ judged (message row 4 7 0 0 0) (inNight .closing base) = .none := by decide +kernel

theorem hyp_NightCountExpirySetsFlagAndStep :
    let s := base.setNight { base.night with start := .running 1, deadline := .running 0, grace := .running 5 }
    s.night.deadline.isRunning = true ∧ s.night.start.isRunning = true ∧ s.night.grace.isRunning = true ∧ s.InSync
      ∧ s.slot .night = .empty ∧ s.replica.night.state = .running ∧ s.night.deadlineDue = false
      ∧ (inNight .pending s).replica.night.state = .pending ∧ (inNight .closing s).replica.night.state = .closing
      ∧ (inState .joining s).member.state ≠ .inSync ∧ s.night.startDue = false ∧ s.night.graceDue = false
      ∧ (inNight .held s).replica.night.heldFrom = .pending ∧ (inNight .ended s).replica.night.state = .ended := by
  decide +kernel

/-! ## Membership -/

def waiting (count : Nat) (onlyAsks : Bool) : State :=
  base.setMember { Member.cold with
    state := .joining, askCount := count, askWait := .running 0, onlyAsks := onlyAsks }

theorem hyp_AskAndGapTimersDecide :
    (waiting 1 true).member.askWait.isRunning = true ∧ (waiting 1 true).member.onlyAsks = true
      ∧ (waiting 3 false).member.askCount < 4 ∧ 4 ≤ (waiting 4 false).member.askCount
      ∧ (collecting 5 []).member.seriesGap.isRunning = true ∧ (collecting 5 []).member.askCount < 4
      ∧ 4 ≤ ((collecting 5 []).setMember { (collecting 5 []).member with askCount := 4 }).member.askCount := by
  decide +kernel

/-- An answerer with a watch, a snapshot and a pause running, at a position of its series. -/
def answering (position : Nat) (held : Bool) : State :=
  base.setMember { base.member with
    watch := some { answerer := 9, last := 3, gap := .running 0 }, position := position, askHeld := held
    snapshot := some ⟨rep.pools, rep.roster⟩, pause := .running 0, asker := 9 }

theorem hyp_AnswererTimersPlaceRuns :
    (answering 0 true).member.watch ≠ none ∧ (answering 0 true).member.position = 0
      ∧ (answering 0 true).slot .series = .empty ∧ (answering 0 false).member.askHeld = false
      ∧ (answering 4 false).member.position ≠ 0 ∧ (answering 4 false).member.pause.isRunning = true
      ∧ ((answering 4 false).setSlot .series (fresh (runOf 4))).slot .series = .waiting (plain (runOf 4))
      ∧ ((answering 0 false).setSlot .series (fresh (runOf 0))).slot .series = .waiting (plain (runOf 0)) := by
  decide +kernel

theorem hyp_RejoinStartsMembershipAgain :
    (writingTo .command base).takesWrite .command = true ∧ base.member.state ≠ .unconfigured
      ∧ (writingTo .command base).link.commandDone = false
      ∧ (after (.rejoin 0) (writingTo .command base)).takesWrite .command = true
      ∧ (after (.rejoin 0) (writingTo .command base)).link.commandDone = true
      ∧ (writingTo .command (inState .unconfigured base)).takesWrite .command = true
      ∧ (base.setMember { base.member with state := .isolated, cooldown := .running 0 }).member.cooldown.isRunning
        = true := by decide +kernel

/-! ## Claims, the gate and timers -/

def filled (p : PoolRecord) (r : Request) : State := withPool .load p (asking r base)

theorem hyp_RereadingFollowsTheTable :
    base.InSync ∧ base.slot .claim = .empty ∧ loadRequest.state ≠ .granted
      ∧ (asking loadRequest (base.setReplica { rep with
          roster := rosterModify rep.roster 3 fun e => { e with holds := ⟨0, 2, 0⟩ } })).shownHold .load ≠ 0
      ∧ (asking loadRequest base).shownHold .load = 0 ∧ (asking loadRequest base).freeUnits .load = 7
      ∧ (filled { rep.pools.load with capacity := 2 } { loadRequest with patience := 12 }).freeUnits .load = 0
      ∧ (filled { rep.pools.load with reserver := 40, reserved := 8 } loadRequest).freeUnits .load = -1
      ∧ (inNight .held (asking loadRequest base)).replica.night.state ≠ .running :=
  ⟨rfl, rfl, by decide +kernel⟩

/-- The CLAIM waits and its age has run out; the keep timer runs; the watch runs, with station 9 at an age. -/
def aged (age : Nat) : State :=
  let s := (asking loadRequest base).setSlot .claim (fresh claimFrame)
  (s.setClaim { s.claim with claimAge := .running 0, keep := .running 0, watching := true }).setLastHeard
    ((List.replicate 40 0).set 8 age)

theorem hyp_ClaimKeepAndSilenceTimers :
    let s := aged 99999
    s.claim.claimAge.isRunning = true ∧ s.slot .claim = .waiting (plain claimFrame)
      ∧ s.InSync ∧ s.claim.request = some loadRequest
      ∧ s.claim.unparkDue = PerPool.all false ∧ s.shownHold .load = 0
      ∧ (loadRequest.units : Int) ≤ s.freeUnits .load
      ∧ (sendingClaim.setClaim { sendingClaim.claim with claimAge := .running 0 }).claim.claimAge.isRunning = true
      ∧ s.claim.keep.isRunning = true ∧ s.slot .mark = .empty ∧ s.loader.state ≠ .reading
      ∧ base.claim.watching = false ∧ s.slot .reclaim = .empty ∧ s.lastHeard.length = 40
      ∧ (∀ a ∈ s.lastHeard, a ≤ 65535000) ∧ heardMs s.lastHeard 1 % 1000 < heardMs s.lastHeard 9 % 1000
      ∧ 100 ≤ heardAge (passSecond s.lastHeard) 9 ∧ (s.replica.entry 9).holds.load ≠ 0
      ∧ heardAge (passSecond (aged 98999).lastHeard) 9 < 100 := by
  decide +kernel

/-- Station 9's age is furthest into its second. -/
theorem hyp_ClaimKeepAndSilenceTimers_passes :
    ∀ m, heardMs (aged 99999).lastHeard m % 1000 ≤ heardMs (aged 99999).lastHeard 9 % 1000 := by
  intro m
  have : heardMs (aged 99999).lastHeard 9 % 1000 = 999 := by decide +kernel
  omega

/-- GATED, with the gate closed for the night, station 1 shown DONE and station 40 never heard. -/
def gated (mode : GateMode) (patience : Patience) : State :=
  ((((inSeq .gated base).setCfg { settings with gateMode := mode }).setReplica { rep with
    roster := rosterModify rep.roster 1 fun e => { e with presence := .present, state := some .done } }).setGate
    { GateMark.cold with night := 7, emittedNight := 7, patience := patience }).setClaim
    { base.claim with watching := true }

theorem hyp_GateOpensOnItsCondition :
    (gated .free .stopped).gateOpens = true ∧ (gated .afterAny .stopped).gateOpens = true
      ∧ (gated .afterAll .stopped).gateOpens = false ∧ (gated .afterAll (.running 0 7)).gateOpens = false
      ∧ (gated .afterAll (.elapsed 7)).gateOpens = true ∧ (gated .afterAll (.running 0 7)).shownHold .load = 0
      ∧ (after .gatePatienceExpiry (gated .afterAll (.running 0 7))).seq.state = .claiming
      ∧ (base.setGate { GateMark.cold with patience := .running 0 7 }).seq.state ≠ .gated := by decide +kernel

/-! ## The sequencer -/

/-- CLAIMING with the SURGE cost held, while this station's CLAIM for LOAD is on the line. -/
def claiming : State :=
  let s := (inSeq .claiming base).setReplica { rep with
    pools := rep.pools.set .surge { rep.pools.surge with inUse := 6 }
    roster := rosterModify rep.roster 3 fun e => { e with holds := ⟨6, 0, 0⟩ } }
  ((asking loadRequest s).setSlot .claim (.sending (plain claimFrame) 0xC003 false)).setClaim
    { (asking loadRequest s).claim with ownHolds := ⟨6, 0, 0⟩ }

theorem hyp_WakeOnlyWithBothCostsHeld :
    claiming.seq.state ≠ .awaitGood ∧ (after (.frameDelivered .own) claiming).seq.state = .awaitGood
      ∧ exec (.frameDelivered .own) claiming = .next (after (.frameDelivered .own) claiming) :=
  ⟨by decide, by decide +kernel, rfl⟩

theorem hyp_ProgressNeverDecreases :
    AttemptLaw lastAttempt ∧ (∀ p q r, Instr.progressTimerExpiry ≠ .coldStart p q r)
      ∧ exec .progressTimerExpiry lastAttempt = .next (after .progressTimerExpiry lastAttempt)
      ∧ (after .progressTimerExpiry lastAttempt).seq.night = lastAttempt.seq.night
      ∧ (after .progressTimerExpiry lastAttempt).seq.attempt = lastAttempt.seq.attempt :=
  ⟨attemptLaw_lastAttempt, nofun, rfl, by decide +kernel, by decide +kernel⟩

/-- Base is IN_SYNC with night 7 in the replica; a sequencer that has taken up night 7 sees no newer one. -/
theorem noNewerNight_inSeq (x : SeqState) : (inSeq x base).NoNewerNight :=
  .inr (show newer 7 7 = false by decide)

theorem hyp_PowerLineEventsByState :
    (inSeq .awaitGood base).pins.powerGood = false ∧ (inSeq .awaitGood base).seq.state = .awaitGood
      ∧ (inSeq .gated base).NoNewerNight ∧ (inSeq .claiming base).NoNewerNight
      ∧ (inSeq .cooldown base).seq.state = .cooldown ∧ (inSeq .done base).seq.state ≠ .cooldown :=
  ⟨rfl, rfl, noNewerNight_inSeq _, noNewerNight_inSeq _, rfl, by decide⟩

/-- An attempt with all of its timers running. -/
def attempting (x : SeqState) : State :=
  (power (inSeq x base)).setSeq { (inSeq x base).seq with
    good := .running 0, settle := .running 0, contactTimer := .running 0, progressTimer := .running 0, attempt := 1
    outcome := { OutcomeRecord.fresh 7 with used := 1 } }

theorem hyp_AttemptFailsWithItsCause :
    (attempting .awaitGood).seq.good.isRunning = true ∧ (attempting .booting).seq.contactTimer.isRunning = true
      ∧ (attempting .booting).seq.contact = false ∧ (attempting .imaging).seq.progressTimer.isRunning = true
      ∧ (attempting .settle).pins.powerGood = true ∧ (power (inSeq .localUse base)).seq.state.terminal = true := by
  decide

theorem hyp_SettleExpiryEntersBooting :
    (attempting .settle).seq.settle.isRunning = true ∧ (attempting .settle).seq.standing = .running
      ∧ (attempting .settle).restoring = false ∧ (attempting .settle).pins.powerGood = true
      ∧ ((attempting .settle).setSeq { (attempting .settle).seq with standing := .aborted }).seq.standing = .aborted := by
  decide

def finishing : State :=
  (power (inSeq .finishing base)).setSeq { (inSeq .finishing base).seq with shutdown := .running 0, finish := .closedOut }

theorem hyp_FinishingEndsInDone :
    finishing.seq.state = .finishing ∧ finishing.NoNewerNight ∧ finishing.seq.shutdown.isRunning = true
      ∧ finishing.restoring = false ∧ finishing.pins.powerGood = true
      ∧ (inState .joining finishing).NoNewerNight :=
  ⟨rfl, .inr (by decide), rfl, by decide, rfl, .inl (by decide)⟩

/-- COOLDOWN after some failed attempts, of a station whose retry limit is 1. -/
def cooling (used : Nat) (standing : Standing) : State :=
  (inSeq .cooldown base).setSeq { (inSeq .cooldown base).seq with
    cooldown := .running 0, attempt := used, standing := standing
    outcome := { OutcomeRecord.fresh 7 with used := used, causes := List.replicate used .noFirmware } }

theorem hyp_CooldownExpiryDecides :
    (cooling 2 .running).seq.cooldown.isRunning = true ∧ (cooling 2 .running).NoNewerNight
      ∧ (cooling 2 .running).cfg.retryLimit < (cooling 2 .running).seq.outcome.used
      ∧ (cooling 1 .running).seq.outcome.used ≤ (cooling 1 .running).cfg.retryLimit
      ∧ (cooling 1 .running).shownHold .load = 0 ∧ (cooling 1 .held).seq.standing = .held
      ∧ (inNight .held (cooling 1 .held)).replica.night.state ≠ .running
      ∧ (cooling 1 .aborted).seq.standing = .aborted :=
  ⟨rfl, .inr (by decide), by decide, by decide, by decide +kernel, rfl, by decide, rfl⟩

theorem hyp_PressByState :
    (inSeq .standby base).pins.panelButton = false ∧ (inSeq .skipped base).seq.state.terminal = true
      ∧ (inSeq .gated base).NoNewerNight ∧ (inSeq .settle base).seq.state.canFail = true
      ∧ (after .pressBegin (inSeq .settle base)).pins.panelButton = true
      ∧ (after .pressBegin (inSeq .settle base)).seq.pressTimer.isRunning = true
      ∧ (after .pressBegin (inSeq .settle base)).NoNewerNight :=
  ⟨rfl, rfl, noNewerNight_inSeq _, rfl, by decide +kernel, by decide +kernel, .inr (by decide +kernel)⟩

/-- Each line of R133, and the skips of R135 and R148, is reached. -/
theorem hyp_NightTakenUpOrSkipped :
    let s := inNight .pending base
    let start := Instr.frameDelivered (sent 1 (.night 7 1 1 2))
    s.framing = true ∧ s.InSync ∧ receive (groupsOf 1 (.night 7 1 1 2)) = .whole 9 (.night 7 1 1 2)
      ∧ receive (groupsOf 1 (.night 7 4 1 5)) = .whole 9 (.night 7 4 1 5) ∧ s.seq.state = .standby
      ∧ (∃ x : State, x = s.setSeq { s.seq with state := .done, night := 6 } ∧ x.seq.state.terminal = true
        ∧ newer 7 x.seq.night = true)
      ∧ (after start (s.setCfg { settings with participates := false })).seq.outcome.skip = some .notParticipating
      ∧ (after start (s.setCfg { settings with cost := ⟨6, 2, 5⟩ })).seq.outcome.skip = some .costExceeds
      ∧ (after start (power s)).seq.state = .localUse ∧ (after start s).seq.state = .gated ∧ s.shownHold .load = 0
      ∧ receive (groupsOf 1 (.night 7 1 2 4)) = .whole 9 (.night 7 1 2 4)
      ∧ (inSeq .gated base).seq.standing = .running ∧ (inSeq .gated base).seq.outcome.used = 0 := by
  refine ⟨by decide, rfl, by decide +kernel, by decide +kernel, rfl, ⟨_, rfl, rfl, by decide⟩, ?_⟩
  decide +kernel

/-- FINISHING for night 6 while the replica shows night 7. -/
def overtaken (flag : Bool) (n : NightState) : State :=
  inNight n (finishing.setSeq { finishing.seq with night := 6, newerNight := flag })

/-- Each line of R136 is reached. -/
theorem hyp_NewerNightAtATerminalState :
    (overtaken false .pending).InSync ∧ newer 7 (overtaken false .pending).seq.night = true
      ∧ (overtaken false .pending).framing = true ∧ (overtaken false .pending).pins.powerGood = true
      ∧ (after (.frameDelivered (sent 1 (.night 7 1 1 2))) (overtaken false .pending)).seq.newerNight = true
      ∧ (after .powerGoodFall (overtaken false .running)).seq.state = .gated
      ∧ (overtaken false .running).shownHold .load = 0
      ∧ (after .powerGoodFall (overtaken true .closing)).seq.outcome.skip = some .busyPrevious
      ∧ (after .powerGoodFall (overtaken false .ended)).seq.state = .done
      ∧ (after .powerGoodFall (overtaken true .held)).seq.night = 6 := by decide +kernel

/-! ## The desktop link -/

theorem hyp_PointerAndSelectorWrites :
    base.answering = true ∧ base.link.address = (0x10 : BitVec 7).setWidth 8
      ∧ Register.ofNumber 0x16 = some .command ∧ Register.ofNumber 0x0F = none
      ∧ base.link.address ≠ (0x11 : BitVec 7).setWidth 8 ∧ State.reset.answering = false
      ∧ (writingTo .view base).takesWrite .view = true ∧ (writingTo .index base).takesWrite .index = true
      ∧ (writingTo .station base).takesWrite .station = true ∧ (writingTo .view base).takesWrite .index = false
      ∧ (after (.pointerWrite 0x10 0x17) (writingTo .data base)).takesWrite .data = false
      ∧ (after (.pointerWrite 0x11 0x13) (writingTo .data base)).takesWrite .data = false
      ∧ (after (.viewWrite 6) (writingTo .view base)).link.view = 6
      ∧ (after (.viewWrite 7) (writingTo .view base)).link.view = 0 := by decide +kernel

theorem hyp_DataReadReturnsTheCapture :
    linkAtLimits.answering = true ∧ linkAtLimits.link.address = (0x10 : BitVec 7).setWidth 8
      ∧ linkAtLimits.link.pointer = .data
      ∧ linkAtLimits.link.view ≤ 6 ∧ linkAtLimits.link.index < viewLength linkAtLimits.link.view
      ∧ (attempting .booting).seq.state.inAttempt = true := by decide

/-- A report whose third byte is awaited. -/
def reporting (x : SeqState) (h l : Byte) : State :=
  writingTo .data ((attempting x).setLink { base.link with view := 2, index := 2, report := [h, l] })

/-- Every line of R142 is reached. -/
theorem hyp_DataWriteTakesReports :
    (writingTo .data base).takesWrite .data = true ∧ base.link.view ≠ 2
      ∧ (after (.dataWrite 0) (reporting .settle 0 0)).link.reportStatus = .wrongState
      ∧ (after (.dataWrite 0) (reporting .booting 0 0)).link.reportStatus = .notGo
      ∧ (after (.dataWrite 0) (reporting .imaging 0x03 0xE9)).link.reportStatus = .range
      ∧ (after (.dataWrite 0) ((reporting .imaging 0 0).setSeq { (reporting .imaging 0 0).seq with progress := 1 })
        ).link.reportStatus = .decreasing
      ∧ (after (.dataWrite 0) (reporting .imaging 0x03 0xE8)).link.reportStatus = .accepted
      ∧ (after (.dataWrite 6) (reporting .imaging 0 0)).seq.state = .cooldown
      ∧ (after (.dataWrite 2) (reporting .imaging 0 0)).seq.state = .finishing := by decide +kernel

theorem hyp_RegisterReadsAndEventWrites :
    base.link.clearMode = .readClears ∧ (pointing .events linkAtLimits).link.pointer = .events
      ∧ (after (.eventsRead 0x10 0) (pointing .events linkAtLimits)).link.eventsCopy = some 0x3F1F
      ∧ (after (.eventsRead 0x10 0) (pointing .station linkAtLimits)).link.busByte = some 40
      ∧ (after (.dataRead 0x10) (pointing .view linkAtLimits)).link.busByte = some 6
      ∧ (writingTo .events (base.setLink { base.link with clearMode := .writeClears })).takesWrite .events = true
      ∧ (writingTo .eventMask base).takesWrite .eventMask = true ∧ State.reset.answering = false := by decide +kernel

theorem hyp_AttnAndProbe : LinkRanges base ∧ LinkRanges (raise .nightRunning base)
    ∧ (raise .nightRunning base).attn = true ∧ (writingTo .command base).takesWrite .command = true
    ∧ (0x00 : Byte) ≠ 0x01 ∧ (0x03 : Byte) ≠ 0x02
    ∧ (after (.unknownCommand 0x03 9) (writingTo .command base)).link.lastStatus = .unknown
    ∧ (writingTo .command base).link.commandDone = false
    ∧ (after (.probe 5) (writingTo .command base)).link.commandDone = true
    ∧ (after (.probe 5) (writingTo .command base)).takesWrite .command = true :=
  ⟨by constructor <;> decide, by constructor <;> decide, by decide +kernel⟩

/-- R155, R172: a second PROBE of one write transaction is acknowledged and ignored; a new transaction takes it. -/
theorem test_furtherCommandBytes :
    let s := after (.probe 7) (after (.probe 5) (after (.pointerWrite 0x10 0x16) base))
    let t := after (.probe 7) (after (.pointerWrite 0x10 0x16) s)
    s.link.probeEcho = 5 ∧ s.link.probeCount = 1 ∧ s.link.busAck = true
      ∧ t.link.probeEcho = 7 ∧ t.link.probeCount = 2 := by decide +kernel

/-- R153, 10.9: the boot record of a station that waits for its power. -/
theorem test_bootView : (attempting .settle).viewBytes 1 = [0, 7, 0, 0, 0, 0, 3, 0x2A, 0x51, 1, 0, 1, 0] := by
  decide +kernel

end Sys2Proof.Tests
end

