-- ==== Sys2Proof/Proofs/LineKept.lean ====
section
/-! PROOFS. What the operations of the blocks leave alone of the Row Line Interface: one lemma per operation, to be
chained in the order in which the operations are made. No operation makes a slot SENDING, takes a count out of its range
or clears an event, and none but the entries to a membership state writes the line's counts. -/

namespace Sys2Proof.Machine

set_option Elab.async false

/-- The Row Line Interface without its queue and without what the sources keep behind it: the counts of the line. -/
def Rli.line (r : Rli) : Rli :=
  { r with queue := Queue.cold, heldRelease := PerPool.all 0, heldMark := .none, askOwed := false }

/-- What the operations of the blocks keep: the counts of a frame stay in their range, no slot becomes SENDING, a
pending event stays pending, and neither the counts of the line nor the membership state are written. -/
structure LineKept (z t : State) : Prop where
  inRange : ∀ src, (z.slot src).InRange → (t.slot src).InRange
  sending : ∀ src, (t.slot src).isSending = true → (z.slot src).isSending = true
  pending : ∀ e, z.isPending e = true → t.isPending e = true
  line : t.rli.line = z.rli.line
  state : t.member.state = z.member.state

/-- R21: a fresh frame has both counts at 0. -/
theorem fresh_inRange (b : Body) : (fresh b).InRange := ⟨Nat.zero_le _, Nat.zero_lt_succ _⟩

namespace LineKept

variable {z s t : State}

/-! ### What the relation gives -/

theorem refl (s : State) : LineKept s s := ⟨fun _ h => h, fun _ h => h, fun _ h => h, rfl, rfl⟩

theorem congr (h : LineKept z s) (hr : t.rli = s.rli := by rfl) (hl : t.link.events = s.link.events := by rfl)
    (hm : t.member.state = s.member.state := by rfl) : LineKept z t where
  inRange src := by simpa only [State.slot, hr] using h.inRange src
  sending src := by simpa only [State.slot, hr] using h.sending src
  pending e := by simpa only [State.isPending, hl] using h.pending e
  line := by rw [hr, h.line]
  state := by rw [hm, h.state]

theorem collisions (h : LineKept z t) : t.rli.collisions = z.rli.collisions := (congrArg Rli.collisions h.line :)
theorem vetoRun (h : LineKept z t) : t.rli.vetoRun = z.rli.vetoRun := (congrArg Rli.vetoRun h.line :)
theorem framesDelivered (h : LineKept z t) : t.rli.framesDelivered = z.rli.framesDelivered :=
  (congrArg Rli.framesDelivered h.line :)
theorem framesVetoed (h : LineKept z t) : t.rli.framesVetoed = z.rli.framesVetoed :=
  (congrArg Rli.framesVetoed h.line :)
theorem arbLosses (h : LineKept z t) : t.rli.arbLosses = z.rli.arbLosses := (congrArg Rli.arbLosses h.line :)
theorem rxErrors (h : LineKept z t) : t.rli.rxErrors = z.rli.rxErrors := (congrArg Rli.rxErrors h.line :)

theorem ite {c : Prop} [Decidable c] (hs : LineKept z s) (ht : LineKept z t) : LineKept z (if c then s else t) := by
  split <;> assumption

/-! ### Writing one block -/

theorem setNight (h : LineKept z s) {x : NightUnit} : LineKept z (s.setNight x) := h.congr
theorem setClaim (h : LineKept z s) {x : ClaimEngine} : LineKept z (s.setClaim x) := h.congr
theorem setGate (h : LineKept z s) {x : GateMark} : LineKept z (s.setGate x) := h.congr
theorem setSeq (h : LineKept z s) {x : Sequencer} : LineKept z (s.setSeq x) := h.congr
theorem setMember (h : LineKept z s) {x : Member} (hx : x.state = s.member.state := by rfl) :
    LineKept z (s.setMember x) := h.congr rfl rfl hx
theorem setLink (h : LineKept z s) {x : LinkPort} (hx : x.events = s.link.events := by rfl) :
    LineKept z (s.setLink x) := h.congr rfl hx rfl

/-- What a source keeps for its slot may change. -/
theorem setRli (h : LineKept z s) {x : Rli} (hq : x.queue = s.rli.queue := by rfl)
    (hl : x.line = s.rli.line := by rfl) : LineKept z (s.setRli x) where
  inRange src := by simpa only [State.slot, setRli_rli, hq] using h.inRange src
  sending src := by simpa only [State.slot, setRli_rli, hq] using h.sending src
  pending := h.pending
  line := hl.trans h.line
  state := h.state

/-- A slot may be given a content that is not SENDING. -/
theorem setSlot (h : LineKept z s) {src : Source} {x : Slot} (hr : (z.slot src).InRange → x.InRange)
    (hs : x.isSending = false) : LineKept z (s.setSlot src x) where
  inRange o ho := by
    by_cases e : o = src
    · subst e; rw [slot_setSlot_self]; exact hr ho
    · rw [slot_setSlot_ne s x e]; exact h.inRange o ho
  sending o ho := by
    by_cases e : o = src
    · subst e; rw [slot_setSlot_self, hs] at ho; cases ho
    · rw [slot_setSlot_ne s x e] at ho; exact h.sending o ho
  pending := h.pending
  line := h.line
  state := h.state

theorem setEmpty (h : LineKept z s) (src : Source) : LineKept z (s.setSlot src .empty) :=
  h.setSlot (fun _ => trivial) rfl

theorem setFresh (h : LineKept z s) (src : Source) (b : Body) : LineKept z (s.setSlot src (fresh b)) :=
  h.setSlot (fun _ => fresh_inRange b) rfl

/-- A WAITING frame is replaced: its loss count stays and its veto count does not rise. -/
theorem setQueued (h : LineKept z s) {src : Source} {q x : Queued} (hq : s.slot src = .waiting q)
    (hl : x.loss = q.loss := by rfl) (hv : x.veto ≤ q.veto := by exact Nat.zero_le _) :
    LineKept z (s.setSlot src (.waiting x)) :=
  h.setSlot (fun hz => by
    have hr := h.inRange src hz
    rw [hq] at hr
    exact ⟨hl ▸ hr.1, Nat.lt_of_le_of_lt hv hr.2⟩) rfl

/-! ### The queue, EVENTS -/

theorem place (h : LineKept z s) (src : Source) (b : Body) : LineKept z (place src b s) := by
  unfold Machine.place
  split
  · exact h.setFresh src b
  · exact h
  · exact h

theorem withdraw (h : LineKept z s) (src : Source) : LineKept z (withdraw src s) := by
  unfold Machine.withdraw
  split
  · exact h.setEmpty src
  · exact h
  · exact h

theorem raise (h : LineKept z s) (e : Event) : LineKept z (raise e s) where
  inRange := h.inRange
  sending := h.sending
  pending o ho := by
    by_cases eo : o = e
    · subst eo; exact raise_pending_self o s
    · rw [raise_pending_ne s eo]; exact h.pending o ho
  line := h.line
  state := h.state

/-! ### Marks and the gate -/

theorem putMark (h : LineKept z s) (x : HeldMark) : LineKept z (putMark x s) := by
  unfold Machine.putMark
  split
  · exact h.setFresh _ _
  case h_2 hq => exact h.setQueued hq
  · exact h.setRli

theorem keepMark (h : LineKept z s) : LineKept z (keepMark s) := .ite (h.putMark _) h

theorem stateMark (h : LineKept z s) : LineKept z (stateMark s) := .ite h h.keepMark

theorem milestone (h : LineKept z s) (k : MarkKind) : LineKept z (milestone k s) :=
  .ite h (.ite (h.setGate.putMark _) h.setGate)

theorem comparator (h : LineKept z s) (p : Nat) (later : Option MarkKind) : LineKept z (comparator p later s) := by
  unfold Machine.comparator
  refine .ite ?_ h
  cases later with
  | none => exact h.milestone _
  | some k => exact .ite (h.milestone _) ((h.milestone _).milestone _)

theorem progressMark (h : LineKept z s) : LineKept z (progressMark s) := by
  unfold Machine.progressMark
  split
  case h_1 hq => exact h.setQueued hq
  · exact h
  · exact h

theorem presentHeldMark (h : LineKept z s) : LineKept z (presentHeldMark s) := by
  unfold Machine.presentHeldMark
  split
  · exact h
  · exact h.setRli.putMark _
  · exact h.setRli.putMark _

theorem markDelivered (h : LineKept z s) (b : Body) : LineKept z (markDelivered b s) :=
  (ite h.setGate h).presentHeldMark

theorem markDropped (h : LineKept z s) : LineKept z (markDropped s) := h.setRli.putMark _

theorem emittedFor (h : LineKept z s) (n : Word16) : LineKept z (emittedFor n s) := .ite h h.setGate

theorem gateReady (h : LineKept z s) (n : Word16) : LineKept z (gateReady n s) := .ite h h.setGate

theorem startPatience (h : LineKept z s) : LineKept z (startPatience s) := .ite h h.setGate

theorem stopPatience (h : LineKept z s) : LineKept z (stopPatience s) := h.setGate

theorem patienceAtSync (h : LineKept z s) : LineKept z (patienceAtSync s) := .ite h.startPatience h

/-! ### The Claim Engine -/

theorem keepSync (h : LineKept z s) : LineKept z (keepSync s) := .ite (.ite h h.setClaim) h.setClaim

theorem keepRestart (h : LineKept z s) : LineKept z (keepRestart s) := .ite h.setClaim h

theorem recordHold (h : LineKept z s) (p : Pool) (u : Nat) : LineKept z (recordHold p u s) := h.setClaim.keepSync

theorem recordReservation (h : LineKept z s) (r : Option Pool) : LineKept z (recordReservation r s) :=
  h.setClaim.keepSync

theorem setRequestState (h : LineKept z s) (st : RequestState) : LineKept z (setRequestState st s) := h.setClaim

theorem stopClaimAge (h : LineKept z s) : LineKept z (stopClaimAge s) := h.setClaim

theorem placeClaim (h : LineKept z s) (r : Request) : LineKept z (placeClaim r s) := by
  unfold Machine.placeClaim
  split
  · exact ((h.setFresh _ _).setRequestState _).setClaim
  · exact h.setRequestState _
  · exact h.setRequestState _

theorem placePark (h : LineKept z s) (r : Request) : LineKept z (placePark r s) := by
  unfold Machine.placePark
  split
  · exact (h.setFresh _ _).setRequestState _
  · exact h.setRequestState _
  · exact h.setRequestState _

theorem setGranted (h : LineKept z s) : LineKept z (setGranted s) := h.setClaim

theorem grantRequest (h : LineKept z s) (p : Pool) (u : Nat) : LineKept z (grantRequest p u s) :=
  (h.recordHold p u).setGranted

theorem reread (h : LineKept z s) : LineKept z (reread s).1 := by
  unfold Machine.reread
  split
  · exact h
  split
  · exact h
  split
  · exact h.grantRequest _ _
  · exact h.setRequestState _
  · exact h.placeClaim _
  · exact h.placePark _

theorem raisePatience (h : LineKept z s) : LineKept z (raisePatience s) := .ite h.setClaim h

theorem wantUnpark (h : LineKept z s) (p : Pool) : LineKept z (wantUnpark p s) := h.setClaim

theorem tryUnpark (h : LineKept z s) : LineKept z (tryUnpark s) := by
  unfold Machine.tryUnpark
  refine .ite h ?_
  dsimp only
  split
  · exact (h.setFresh _ _).setClaim
  · exact h.setClaim

theorem dropRequestFrame (h : LineKept z s) : LineKept z (dropRequestFrame s) := by
  unfold Machine.dropRequestFrame
  refine .ite ?_ h
  split
  · exact (h.withdraw _).stopClaimAge
  · exact h.setClaim
  · exact h

theorem cancelRequest (h : LineKept z s) : LineKept z (cancelRequest s) := by
  unfold Machine.cancelRequest
  split
  · exact h
  · exact .ite h.setClaim (ite (h.dropRequestFrame.setClaim.wantUnpark _) h.dropRequestFrame.setClaim).tryUnpark

theorem cancelAll (h : LineKept z s) : LineKept z (cancelAll s) := h.setClaim.cancelRequest

theorem cancelFor (h : LineKept z s) (p : Pool) : LineKept z (cancelFor p s) := by
  have hd : LineKept z (match s.claim.deferred with
      | some (q, _) => if q = p then s.setClaim { s.claim with deferred := none } else s
      | none => s) := by
    split
    · exact .ite h.setClaim h
    · exact h
  unfold Machine.cancelFor
  dsimp only
  split
  · exact .ite hd.cancelRequest hd
  · exact hd

theorem makeRequest (h : LineKept z s) (p : Pool) (u : Nat) : LineKept z (makeRequest p u s).1 := by
  unfold Machine.makeRequest
  split
  · exact h.setClaim
  · exact h.cancelRequest.setClaim.reread

theorem startRestore (h : LineKept z s) : LineKept z (startRestore s) := (ite h.dropRequestFrame h).setClaim

theorem placeRelease (h : LineKept z s) (u : PerPool Nat) : LineKept z (placeRelease u s) := by
  unfold Machine.placeRelease
  refine .ite h ?_
  split
  · exact h.setFresh _ _
  case h_2 hq => exact h.setQueued hq
  · exact h.setRli

theorem owePools (h : LineKept z s) (x : PerPool Bool) : LineKept z (owePools x s) := h.setClaim

theorem releaseAsk (h : LineKept z s) (x : PerPool Bool) : LineKept z (releaseAsk x s) :=
  .ite (h.placeRelease _) (h.owePools _)

theorem judgeWatch (h : LineKept z s) : LineKept z (judgeWatch s) := by
  unfold Machine.judgeWatch
  refine .ite h ?_
  split
  · exact h
  · exact h.setFresh _ _
  case h_3 hq _ => exact .ite h (h.setQueued hq)
  · exact h.setEmpty _
  · exact h

theorem suspendEngine (h : LineKept z s) : LineKept z (suspendEngine s) := h.setClaim

/-! ### The sequencer -/

theorem toState (h : LineKept z s) (st : SeqState) : LineKept z (toState st s) := h.setSeq

theorem enterState (h : LineKept z s) (st : SeqState) : LineKept z (enterState st s) := (h.toState st).stateMark

theorem enterWith (h : LineKept z s) (k : MarkKind) (st : SeqState) : LineKept z (enterWith k st s) :=
  (h.toState st).milestone k

theorem setOutcome (h : LineKept z s) (o : NightOutcome) (skip : Option SkipReason) :
    LineKept z (setOutcome o skip s) := .ite (h.setSeq.raise _) h.setSeq

theorem setLate (h : LineKept z s) : LineKept z (setLate s) := h.setSeq

theorem setFinish (h : LineKept z s) (f : FinishOutcome) : LineKept z (setFinish f s) := h.setSeq

theorem wakeStart (h : LineKept z s) : LineKept z (wakeStart s) := h.setSeq.setLink.stateMark

theorem wakeTest (h : LineKept z s) : LineKept z (wakeTest s) := .ite h.wakeStart h

theorem requestSurge (h : LineKept z s) : LineKept z (requestSurge s) := (h.makeRequest _ _).wakeTest

theorem loadGranted (h : LineKept z s) : LineKept z (loadGranted s) := .ite h.requestSurge h

theorem requestLoad (h : LineKept z s) : LineKept z (requestLoad s) :=
  .ite (h.makeRequest _ _).loadGranted (h.makeRequest _ _)

theorem feedGranted (h : LineKept z s) : LineKept z (feedGranted s) := .ite (h.setSeq.raise _) h

theorem requestFeed (h : LineKept z s) : LineKept z (requestFeed s) :=
  .ite (h.makeRequest _ _).feedGranted (h.makeRequest _ _)

theorem toldGranted (h : LineKept z s) (p : Pool) : LineKept z (toldGranted p s) := by
  cases p with
  | load => exact h.loadGranted
  | surge => exact h.wakeTest
  | feed => exact h.feedGranted

theorem remakeDeferred (h : LineKept z s) : LineKept z (remakeDeferred s) := by
  unfold Machine.remakeDeferred
  split
  · exact h
  · exact .ite ((h.setClaim.makeRequest _ _).toldGranted _) (h.setClaim.makeRequest _ _)

theorem tellGrant (h : LineKept z s) : LineKept z (tellGrant s) := by
  unfold Machine.tellGrant
  split
  · exact h
  · exact .ite h.remakeDeferred (h.toldGranted _)

theorem rereadTold (h : LineKept z s) : LineKept z (rereadTold s) := .ite h.reread.tellGrant h.reread

theorem claimingStart (h : LineKept z s) : LineKept z (claimingStart s) := .ite h.requestLoad h

theorem enterClaiming (h : LineKept z s) : LineKept z (enterClaiming s) := (h.enterState _).claimingStart

theorem noteOff (h : LineKept z s) : LineKept z (noteOff s) := .ite h.cancelRequest.remakeDeferred h

theorem evaluateGate (h : LineKept z s) : LineKept z (evaluateGate s) := .ite h.setGate.enterClaiming h

theorem readGate (h : LineKept z s) : LineKept z (readGate s) := .ite h.enterClaiming h

theorem enterGated (h : LineKept z s) : LineKept z (enterGated s) :=
  (((h.emittedFor _).gateReady _).enterState _).evaluateGate.readGate

theorem takeUp (h : LineKept z s) : LineKept z (takeUp s) := h.setSeq.emittedFor _

theorem takeUpSkipped (h : LineKept z s) (r : SkipReason) : LineKept z (takeUpSkipped r s) :=
  (h.takeUp.enterWith _ _).setOutcome _ _

theorem takeUpLocal (h : LineKept z s) : LineKept z (takeUpLocal s) := (h.takeUp.enterWith _ _).setOutcome _ _

theorem takeUpRunning (h : LineKept z s) : LineKept z (takeUpRunning s) :=
  .ite (h.takeUpSkipped _) (.ite (h.takeUpSkipped _) (.ite h.takeUpLocal h.takeUp.enterGated))

theorem takeUpClosed (h : LineKept z s) (r : SkipReason) : LineKept z (takeUpClosed r s) := h.takeUpSkipped _

theorem lookNewer (h : LineKept z s) : LineKept z (lookNewer s) :=
  .ite (.ite h.takeUpRunning (.ite (h.takeUpSkipped _) h)) h

theorem finishDone (h : LineKept z s) : LineKept z (finishDone s) :=
  (((h.setSeq.enterState _).noteOff.releaseAsk _).setOutcome _ _).lookNewer

theorem finishingActs (h : LineKept z s) : LineKept z (finishingActs s) :=
  .ite (h.setSeq.releaseAsk _) (h.setSeq.releaseAsk _).finishDone

theorem enterFinishing (h : LineKept z s) (f : FinishOutcome) : LineKept z (enterFinishing f s) :=
  ((h.setFinish f).enterState _).finishingActs

theorem localEntry (h : LineKept z s) : LineKept z (localEntry s) :=
  (((h.cancelAll.releaseAsk _).enterWith _ _).setOutcome _ _).lookNewer

theorem skipNight (h : LineKept z s) (r : SkipReason) (o : NightOutcome) : LineKept z (skipNight r o s) :=
  have h1 := (h.cancelAll.releaseAsk everyPool).enterWith .skipped .skipped
  (ite (h1.setOutcome _ _) (h1.setOutcome _ _)).lookNewer

theorem longPress (h : LineKept z s) : LineKept z (longPress s) := h.setSeq.localEntry

theorem failAttempt (h : LineKept z s) (c : Cause) : LineKept z (failAttempt c s) :=
  (h.setSeq.cancelAll.releaseAsk _).enterState _

theorem bootingActs (h : LineKept z s) : LineKept z (bootingActs s) := by
  unfold Machine.bootingActs
  dsimp only
  split
  · exact h.setSeq.requestFeed
  · exact h.setSeq.requestFeed
  · exact h.setSeq.enterFinishing _
  · exact h.setSeq.enterFinishing _
  · exact h.setSeq.enterFinishing _

theorem settleEnds (h : LineKept z s) : LineKept z (settleEnds s) :=
  ((h.setSeq.releaseAsk _).enterWith _ _).bootingActs

theorem cooldownEnds (h : LineKept z s) : LineKept z (cooldownEnds s) := by
  unfold Machine.cooldownEnds
  refine .ite ((h.enterWith _ _).setOutcome _ _).lookNewer ?_
  split
  · exact h.enterClaiming
  · exact h.enterGated
  · exact ((h.enterWith _ _).setOutcome _ _).lookNewer
  · exact ((h.enterWith _ _).setOutcome _ _).lookNewer
  · exact ((h.enterWith _ _).setOutcome _ _).lookNewer

theorem gatedStanding (h : LineKept z s) : LineKept z (gatedStanding s) := by
  unfold Machine.gatedStanding
  split
  · exact h
  · exact h.readGate
  · exact h.skipNight _ _
  · exact h.skipNight _ _
  · exact h.skipNight _ _

theorem claimingStanding (h : LineKept z s) : LineKept z (claimingStanding s) := by
  unfold Machine.claimingStanding
  split
  · exact (h.cancelAll.releaseAsk _).enterGated
  · exact h
  · exact h.skipNight _ _
  · exact h.skipNight _ _
  · exact h.skipNight _ _

theorem bootingStanding (h : LineKept z s) : LineKept z (bootingStanding s) := by
  unfold Machine.bootingStanding
  split
  · exact h
  · exact h
  · exact (h.cancelFor _).enterFinishing _
  · exact h
  · exact (h.setLate.cancelFor _).enterFinishing _
  · exact h.setLate
  · exact (h.setLate.cancelFor _).enterFinishing _
  · exact h.setLate.enterFinishing _

theorem imagingStanding (h : LineKept z s) : LineKept z (imagingStanding s) := by
  unfold Machine.imagingStanding
  split
  · exact h
  · exact h
  · exact h
  · exact h.setLate
  · exact h.setLate.setFinish _

theorem lateStanding (h : LineKept z s) : LineKept z (lateStanding s) := by
  unfold Machine.lateStanding
  split
  · exact h
  · exact h
  · exact h
  · exact h.setLate
  · exact h.setLate

theorem standingReaction (h : LineKept z s) : LineKept z (standingReaction s) := by
  unfold Machine.standingReaction
  split
  · exact h.gatedStanding
  · exact h.claimingStanding
  · exact h.bootingStanding
  · exact h.imagingStanding
  case h_5 | h_6 | h_7 | h_8 => exact h.lateStanding
  all_goals exact h

theorem workStanding (h : LineKept z s) : LineKept z (workStanding s) := .ite h h.setSeq.standingReaction

theorem noteNewer (h : LineKept z s) : LineKept z (noteNewer s) := .ite h.setSeq h

theorem busyNotice (h : LineKept z s) : LineKept z (busyNotice s) := h.noteNewer.workStanding

theorem nightNotice (h : LineKept z s) (aborted : Bool) : LineKept z (nightNotice aborted s) := by
  unfold Machine.nightNotice
  refine .ite ?_ h.busyNotice
  split
  · exact h.takeUpRunning
  · exact h.takeUpClosed _
  · exact .ite (h.takeUpClosed _) h
  all_goals exact h

theorem toldLost (h : LineKept z s) (lost : PerPool Bool) : LineKept z (toldLost lost s) := by
  unfold Machine.toldLost
  split
  · exact .ite ((h.cancelFor _).releaseAsk _).requestLoad h.claimingStart
  · exact .ite h.setSeq.requestFeed h
  all_goals exact h

theorem bootRecordRead (h : LineKept z s) : LineKept z (bootRecordRead s) := .ite h.setSeq h

theorem firstReport (h : LineKept z s) : LineKept z (firstReport s) := .ite (h.enterWith _ _) h

theorem transferReport (h : LineKept z s) : LineKept z (transferReport s) := (h.setSeq.releaseAsk _).milestone _

theorem imageReport (h : LineKept z s) : LineKept z (imageReport s) :=
  ((ite h (h.setFinish _)).enterWith _ _).finishingActs

theorem reportFlags (h : LineKept z s) (p : Nat) (transfer image failed : Bool) :
    LineKept z (reportFlags p transfer image failed s) :=
  have h2 := ite h.firstReport.transferReport h.firstReport
  .ite (h.firstReport.failAttempt _) ((ite h2.imageReport h2).comparator _ _)

theorem acceptReport (h : LineKept z s) (p : Nat) (transfer image failed : Bool) :
    LineKept z (acceptReport p transfer image failed s) := (h.setSeq.reportFlags _ _ _ _).progressMark

theorem takeReport (h : LineKept z s) (p : Nat) (transfer image failed : Bool) :
    LineKept z (takeReport p transfer image failed s) := .ite (h.acceptReport _ _ _ _) (h.raise _)

theorem reviewIdle (h : LineKept z s) : LineKept z (reviewIdle s) :=
  .ite (.ite h.takeUpRunning h) (.ite h.lookNewer h)

theorem review (h : LineKept z s) : LineKept z (review s) :=
  (ite h.reviewIdle h.reviewIdle.busyNotice).wakeTest.readGate

/-! ### What the Claim Engine does at the notices of an application -/

theorem lostRound (h : LineKept z s) : LineKept z (lostRound s) := h.raisePatience.setRequestState _

theorem dropReservation (h : LineKept z s) (p : Pool) : LineKept z (dropReservation p s) :=
  .ite (h.recordReservation _) h

theorem claimWon (h : LineKept z s) (p : Pool) (u : Nat) : LineKept z (claimWon p u s) :=
  .ite (h.grantRequest _ _).tellGrant ((h.recordHold _ _).releaseAsk _)

theorem ownClaim (h : LineKept z s) (pool units : Byte) (v : Verdict) : LineKept z (ownClaim pool units v s) := by
  unfold Machine.ownClaim
  split
  · exact h
  · exact .ite ((h.dropReservation _).claimWon _ _) (.ite (h.claimWon _ _) (.ite h.lostRound h))

theorem ownPark (h : LineKept z s) (pool : Byte) (v : Verdict) : LineKept z (ownPark pool v s) := by
  unfold Machine.ownPark
  split
  · exact h
  · exact .ite (.ite ((h.recordReservation _).setRequestState _) ((h.recordReservation _).wantUnpark _))
      (.ite h.lostRound h)

theorem ownUnpark (h : LineKept z s) (pool : Byte) : LineKept z (ownUnpark pool s) := by
  unfold Machine.ownUnpark
  split
  · exact h
  · exact h.dropReservation _

theorem releaseOutcome (h : LineKept z s) (u : PerPool Nat) (p : Pool) : LineKept z (releaseOutcome u p s) :=
  .ite h (h.recordHold _ _)

theorem ownRelease (h : LineKept z s) (u : PerPool Nat) : LineKept z (ownRelease u s) :=
  (((h.releaseOutcome u _).releaseOutcome u _).releaseOutcome u _).claimingStart

theorem peerGrant (h : LineKept z s) (p : Pool) : LineKept z (peerGrant p s) := by
  unfold Machine.peerGrant
  split
  · exact .ite h.raisePatience h
  · exact h

theorem losePools (h : LineKept z s) (lost : PerPool Bool) : LineKept z (losePools lost s) :=
  (ite h.startRestore.rereadTold h).toldLost _

theorem reclaimedSelf (h : LineKept z s) : LineKept z (reclaimedSelf s) := h.setClaim.keepSync.losePools _

theorem nightClearedReservation (h : LineKept z s) (r0 : Replica) : LineKept z (nightClearedReservation r0 s) := by
  unfold Machine.nightClearedReservation
  split
  · exact .ite (h.recordReservation _) h
  · exact h

theorem engineNotice (h : LineKept z s) (r0 : Replica) (own : Bool) (b : Body) (v : Verdict) :
    LineKept z (engineNotice r0 own b v s) := by
  unfold Machine.engineNotice
  split
  · exact h.ownClaim _ _ _
  · split
    · exact .ite (h.peerGrant _) h
    · exact h
  · exact h.ownPark _ _
  · exact h.ownUnpark _
  · exact h.ownRelease _
  · exact .ite h.reclaimedSelf h
  · exact .ite (h.nightClearedReservation _) h
  · exact .ite (h.nightClearedReservation _) h
  · exact h

theorem rereadParked (h : LineKept z s) (s0 : State) : LineKept z (rereadParked s0 s) := by
  unfold Machine.rereadParked
  split
  · exact .ite h.rereadTold h
  · exact h

theorem claimEmptied (h : LineKept z s) : LineKept z (claimEmptied s) := h.tryUnpark.rereadTold

theorem claimLeft (h : LineKept z s) : LineKept z (claimLeft s) := h.setClaim

theorem unparkDropped (h : LineKept z s) (b : Body) : LineKept z (unparkDropped b s) := by
  unfold Machine.unparkDropped
  split
  · split
    · exact h.wantUnpark _
    · exact h
  · exact h

theorem claimWaiting (h : LineKept z s) : LineKept z (claimWaiting s) := .ite (h.withdraw _).claimLeft.claimEmptied h

theorem clearHeldRelease (h : LineKept z s) : LineKept z (clearHeldRelease s) := h.setRli

theorem sendRelease (h : LineKept z s) (u : PerPool Nat) : LineKept z (sendRelease u s) :=
  .ite (h.placeRelease _) (h.owePools _)

theorem releaseDelivered (h : LineKept z s) : LineKept z (releaseDelivered s) := h.clearHeldRelease.sendRelease _

theorem releaseDropped (h : LineKept z s) (b : Body) : LineKept z (releaseDropped b s) :=
  h.clearHeldRelease.sendRelease _

theorem releaseWaiting (h : LineKept z s) : LineKept z (releaseWaiting s) := h.clearHeldRelease.placeRelease _

theorem releaseLost (h : LineKept z s) (b : Body) : LineKept z (releaseLost b s) := h.clearHeldRelease.owePools _

theorem takeRecord (h : LineKept z s) : LineKept z (takeRecord s) := h.setClaim.keepSync

theorem takeReservation (h : LineKept z s) : LineKept z (takeReservation s) := h.recordReservation _

theorem unparkUnusable (h : LineKept z s) : LineKept z (unparkUnusable s) := h.setClaim.tryUnpark

theorem poolsFound (h : LineKept z s) (found : PerPool Bool) : LineKept z (poolsFound found s) := by
  unfold Machine.poolsFound
  dsimp only
  split
  · exact .ite (h.releaseAsk _).setGranted.tellGrant (h.releaseAsk _)
  · exact h.releaseAsk _

theorem reconcile (h : LineKept z s) : LineKept z (reconcile s) :=
  have h1 := h.takeRecord.takeReservation
  ((((ite h1.startRestore h1).unparkUnusable).poolsFound _).toldLost _).claimingStart

theorem settleOwed (h : LineKept z s) : LineKept z (settleOwed s) := h.setClaim.placeRelease _

theorem engineEntry (h : LineKept z s) : LineKept z (engineEntry s) :=
  h.reconcile.settleOwed.rereadTold.setClaim.judgeWatch

/-! ### The Night Unit -/

theorem rejectMessage (h : LineKept z s) (r : RejectReason) : LineKept z (rejectMessage r s) := h.setNight

theorem acceptMessage (h : LineKept z s) (m : OrderMsg) : LineKept z (acceptMessage m s) := h.setNight.place _ _

theorem checkMessage (h : LineKept z s) (m : List Byte) : LineKept z (checkMessage m s) := by
  unfold Machine.checkMessage
  split
  · exact h.rejectMessage _
  · dsimp only
    split
    · exact h.setNight.rejectMessage _
    · exact h.setNight.acceptMessage _

theorem orderSilence (h : LineKept z s) (line : LineBytes) : LineKept z (orderSilence line s) :=
  .ite (h.setNight.setNight.checkMessage _) h.setNight

theorem forgetRelay (h : LineKept z s) : LineKept z (forgetRelay s) := h.setNight

theorem rejudgeRelay (h : LineKept z s) : LineKept z (rejudgeRelay s) := by
  unfold Machine.rejudgeRelay
  split
  · split
    · exact (h.setEmpty _).forgetRelay
    · exact .ite h (h.setFresh _ _)
  · exact h

theorem workStep (h : LineKept z s) : LineKept z (workStep s) := by
  unfold Machine.workStep
  refine .ite h ?_
  split
  · exact h.setFresh _ _
  · exact h
  · exact .ite h (h.setFresh _ _)
  · exact h.setEmpty _
  · exact h

theorem expireCount (h : LineKept z s) (c : NightCount) : LineKept z (expireCount c s) := by
  cases c <;> exact h.setNight

theorem setCount (h : LineKept z s) (c : NightCount) (t : Timer) : LineKept z (setCount c t s) := by
  cases c <;> exact h.setNight

theorem runCount (h : LineKept z s) (c : NightCount) (duration age : Nat) : LineKept z (runCount c duration age s) :=
  .ite (h.expireCount c) (h.setCount c _)

theorem clearCounts (h : LineKept z s) : LineKept z (clearCounts s) := h.setNight

theorem countsAt (h : LineKept z s) (st : NightState) : LineKept z (countsAt st s) := by
  cases st with
  | running => exact h.setNight
  | closing => exact h.setNight
  | ended => exact h.clearCounts
  | idle => exact h
  | pending => exact h
  | held => exact h

theorem orderCounts (h : LineKept z s) (age : Nat) : LineKept z (orderCounts age s) :=
  (ite h.clearCounts (h.clearCounts.runCount _ _ _)).runCount _ _ _

theorem nightCounts (h : LineKept z s) (age : Nat) : LineKept z (nightCounts age s) :=
  .ite ((h.countsAt _).runCount _ _ _) (h.countsAt _)

theorem raiseRunning (h : LineKept z s) : LineKept z (raiseRunning s) := .ite (h.raise _) h

theorem patienceRunning (h : LineKept z s) : LineKept z (patienceRunning s) := .ite h.startPatience h

theorem nightApplied (h : LineKept z s) (b : Body) (age : Nat) : LineKept z (nightApplied b age s) := by
  unfold Machine.nightApplied
  split
  · exact (h.orderCounts age).raiseRunning.stopPatience.patienceRunning.rejudgeRelay
  · have counted := (h.nightCounts age).raiseRunning
    exact (ite (counted.raise _) counted).patienceRunning.rejudgeRelay
  · exact h

/-! ### The answerer and the series watch -/

theorem placeRun0 (h : LineKept z s) : LineKept z (placeRun0 s) := h.place _ _

theorem startAnswer (h : LineKept z s) (asker : Nat) : LineKept z (startAnswer asker s) := h.setMember.placeRun0

theorem refreshRun0 (h : LineKept z s) : LineKept z (refreshRun0 s) := by
  unfold Machine.refreshRun0
  split
  · exact .ite (h.setFresh _ _) h
  · exact h
  · exact h

theorem currentRun0 (h : LineKept z s) : LineKept z (currentRun0 s) := by
  unfold Machine.currentRun0
  split
  case h_1 hq => exact .ite (h.setQueued hq rfl (Nat.le_refl _)) h
  · exact h
  · exact h

theorem clearAnswerer (h : LineKept z s) : LineKept z (clearAnswerer s) := h.setMember

theorem stopSeries (h : LineKept z s) : LineKept z (stopSeries s) := h.setMember.withdraw _

theorem placeRun (h : LineKept z s) (k : Nat) : LineKept z (placeRun k s) := by
  unfold Machine.placeRun
  split
  · exact h.setMember.place _ _
  · exact h

theorem beginSeries (h : LineKept z s) : LineKept z (beginSeries s) := h.setMember.placeRun _

theorem runDelivered (h : LineKept z s) (k : Nat) : LineKept z (runDelivered k s) :=
  .ite h (.ite h.setMember (.ite h.setMember (h.placeRun _)))

theorem answerAgain (h : LineKept z s) : LineKept z (answerAgain s) := .ite h.placeRun0 h

theorem seriesDelivered (h : LineKept z s) (b : Body) : LineKept z (seriesDelivered b s) := by
  unfold Machine.seriesDelivered
  split
  · exact .ite (ite h.beginSeries (h.runDelivered _)).answerAgain h
  · exact h

theorem seriesDropped (h : LineKept z s) (b : Body) : LineKept z (seriesDropped b s) := (ite h h.setMember).answerAgain

theorem answerHeld (h : LineKept z s) : LineKept z (answerHeld s) := .ite (h.setMember.startAnswer _) h

theorem endWatch (h : LineKept z s) : LineKept z (endWatch s) := by
  unfold Machine.endWatch
  split
  · exact h.setMember.answerHeld
  · exact h

theorem setWatch (h : LineKept z s) (answerer last : Nat) : LineKept z (setWatch answerer last s) := h.setMember

theorem watchRun (h : LineKept z s) (sender k : Nat) : LineKept z (watchRun sender k s) := by
  unfold Machine.watchRun
  refine .ite (h.setWatch _ _) ?_
  split
  · exact .ite (h.setWatch _ _) h.endWatch
  · exact h

theorem run0Applied (h : LineKept z s) (own : Bool) : LineKept z (run0Applied own s) := by
  unfold Machine.run0Applied
  dsimp only
  refine .ite h.setMember.setMember (.ite h.setMember.stopSeries ?_)
  split
  · exact .ite (h.setMember.withdraw _) h.setMember
  · exact h.setMember
  · exact h.setMember

theorem askApplied (h : LineKept z s) (sender : Nat) : LineKept z (askApplied sender s) :=
  .ite h.setMember (.ite h (h.startAnswer _))

theorem catchUpNotice (h : LineKept z s) (own : Bool) (sender : Nat) (b : Body) :
    LineKept z (catchUpNotice own sender b s) := by
  unfold Machine.catchUpNotice
  split
  · exact .ite h (h.askApplied _)
  · exact (ite (h.run0Applied _) h).watchRun _ _
  · exact h

theorem applyParts (h : LineKept z s) (own : Bool) (sender : Nat) (b : Body) (age : Nat) :
    LineKept z (applyParts own sender b age s) :=
  (ite ((h.congr (t := s.setReplica (applyFrame s.replica sender b).1)).nightApplied _ _) h.congr).engineNotice _ _ _ _

theorem nightNotices (h : LineKept z s) (b : Body) : LineKept z (nightNotices b s) :=
  h.workStep.refreshRun0.nightNotice _

/-- R46, R36: the application of a delivered frame leaves the line and the membership state alone. -/
theorem applyLive (h : LineKept z s) (own : Bool) (sender : Nat) (b : Body) : LineKept z (applyLive own sender b s) :=
  have h1 := (h.applyParts own sender b 0).rereadParked s
  have h2 := ite (h1.nightNotices b) h1
  ((ite h2.evaluateGate h2).catchUpNotice _ _ _).judgeWatch

/-! ### Joining and collecting, inside a membership state -/

theorem placeAsk (h : LineKept z s) : LineKept z (placeAsk s) := by
  unfold Machine.placeAsk
  split
  · exact h.setFresh _ _
  · exact h
  · exact h.setRli

theorem clearJoiner (h : LineKept z s) : LineKept z (clearJoiner s) := h.setMember

theorem askDelivered (h : LineKept z s) : LineKept z (askDelivered s) := .ite h.setMember h

theorem askEmptied (h : LineKept z s) : LineKept z (askEmptied s) := .ite h.setRli.placeAsk h

theorem lateFrame (h : LineKept z s) (sender : Nat) (b : Body) : LineKept z (lateFrame sender b s) := by
  unfold Machine.lateFrame
  split
  · exact .ite h.setMember h
  · exact h

theorem oweWaiting (h : LineKept z s) : LineKept z (oweWaiting s) := by
  unfold Machine.oweWaiting
  split
  · exact h.releaseLost _
  · exact h
  · exact h

theorem desyncQueue (h : LineKept z s) : LineKept z (desyncQueue s) :=
  ((((((h.oweWaiting.forgetRelay).withdraw _).withdraw _).withdraw _).withdraw _).withdraw _).withdraw _

theorem clearReplica (h : LineKept z s) : LineKept z (clearReplica s) :=
  (h.congr (t := s.setReplica Replica.cold)).clearCounts

theorem forgetClaimFrame (h : LineKept z s) : LineKept z (forgetClaimFrame s) := .ite h h.claimLeft

/-! ### What a source does when its attempt ends -/

theorem slotWaiting (h : LineKept z s) (src : Source) : LineKept z (slotWaiting src s) := by
  cases src with
  | order => exact h
  | night => exact h.workStep
  | claim => exact h.claimWaiting
  | release => exact h.releaseWaiting
  | reclaim => exact h.judgeWatch
  | mark => exact h.presentHeldMark
  | ask => exact h
  | series => exact h

theorem toldDelivered (h : LineKept z s) (src : Source) (b : Body) : LineKept z (toldDelivered src b s) := by
  cases src with
  | order => exact h.forgetRelay
  | night => exact h.workStep
  | claim => exact h.claimLeft.claimEmptied
  | release => exact h.releaseDelivered
  | reclaim => exact h.judgeWatch
  | mark => exact h.markDelivered _
  | ask => exact h.askDelivered.askEmptied
  | series => exact h.seriesDelivered _

theorem toldCleared (h : LineKept z s) (src : Source) (b : Body) : LineKept z (toldCleared src b s) := by
  cases src with
  | order => exact h.forgetRelay
  | night => exact h.workStep
  | claim => exact h.claimLeft.claimEmptied
  | release => exact h.releaseLost _
  | reclaim => exact h.judgeWatch
  | mark => exact h.presentHeldMark
  | ask => exact h.askEmptied
  | series => exact h.answerAgain

theorem ownSlotEmptied (h : LineKept z s) (src : Source) (b : Body) (cleared : Bool) :
    LineKept z (ownSlotEmptied src b cleared s) :=
  .ite ((h.setEmpty src).toldCleared _ _) ((h.setEmpty src).toldDelivered _ _)

end LineKept

end Sys2Proof.Machine
end

