-- ==== Sys2Proof/Proofs/LineRanges.lean ====
section
/-! PROOFS. O5: every operation keeps the counts of the queue and of the line within their limits. -/

namespace Sys2Proof.Machine

set_option Elab.async false

/-- R8: where fewer slots are SENDING the count of them is no greater. -/
theorem sendingCount_le {q r : Queue} (h : ∀ src, (r.get src).isSending = true → (q.get src).isSending = true) :
    r.sendingCount ≤ q.sendingCount := by
  unfold Queue.sendingCount
  rw [← List.countP_eq_length_filter, ← List.countP_eq_length_filter]
  exact List.countP_mono_left fun src _ => h src

/-- R8: where one slot alone may be SENDING at most one is. -/
theorem sendingCount_le_one {q : Queue} {src : Source} (h : ∀ o, o ≠ src → (q.get o).isSending = false) :
    q.sendingCount ≤ 1 := by
  have once : Source.all.count src = 1 := by cases src <;> decide
  unfold Queue.sendingCount
  rw [← List.countP_eq_length_filter, ← once]
  refine List.countP_mono_left fun o _ ho => ?_
  by_contra e
  rw [h o (by simpa using e)] at ho
  cases ho

/-! ### Slots -/

theorem Slot.cleared_isSending (x : Slot) : x.cleared.isSending = x.isSending := by cases x <;> rfl

theorem Slot.cleared_inRange {x : Slot} (h : x.InRange) : x.cleared.InRange := by
  cases x with
  | empty => trivial
  | waiting q => trivial
  | sending q f c => exact h

@[simp] theorem clearQueue_slot (s : State) (src : Source) : (clearQueue s).slot src = (s.slot src).cleared := by
  cases src <;> rfl

/-- R8: no slot is SENDING where none was before. -/
theorem LineKept.free {z t : State} (h : LineKept z t) (hz : z.sendingSource = none) : t.sendingSource = none :=
  List.find?_eq_none.mpr fun src _ ht => by
    have hs := h.sending src ht
    rw [no_sendingSource hz src] at hs
    cases hs

/-- R4: an attempt starts only where no slot is SENDING and the line is not stuck. -/
theorem mayStart_iff (s : State) : s.mayStart = true ↔ s.sendingSource = none ∧ s.rli.stuck = false := by
  simp [State.mayStart]

namespace LineRanges

variable {s t : State}

/-! ### What the invariant needs -/

theorem kept (h : LineRanges s) (k : LineKept s t) : LineRanges t where
  slots src := k.inRange src (h.slots src)
  oneSending := (sendingCount_le k.sending).trans h.oneSending
  vetoRun := k.vetoRun ▸ h.vetoRun
  collisions := k.collisions ▸ h.collisions

theorem congr (h : LineRanges s) (hr : t.rli = s.rli := by rfl) : LineRanges t where
  slots src := by simpa only [State.slot, hr] using h.slots src
  oneSending := hr ▸ h.oneSending
  vetoRun := hr ▸ h.vetoRun
  collisions := hr ▸ h.collisions

theorem ite {c : Prop} [Decidable c] (hs : LineRanges s) (ht : LineRanges t) : LineRanges (if c then s else t) := by
  split <;> assumption

/-- The counts of the line are written within their limits, and the queue is not. -/
theorem counts (h : LineRanges s) (hv : t.rli.vetoRun < Config.vetoRunLimit)
    (hc : t.rli.collisions ≤ Config.collisionLimit) (hq : t.rli.queue = s.rli.queue := by rfl) : LineRanges t where
  slots src := by simpa only [State.slot, hq] using h.slots src
  oneSending := hq ▸ h.oneSending
  vetoRun := hv
  collisions := hc

/-! ### The membership states -/

theorem joinEntry (h : LineRanges s) : LineRanges (joinEntry s) :=
  (h.congr (t := (clearJoiner s).setMember _)).kept (.placeAsk (.refl _))

theorem isolate (h : LineRanges s) (duplicate : Bool) : LineRanges (isolate duplicate s) :=
  .ite (h.counts h.vetoRun (Nat.zero_le _)) (h.counts h.vetoRun (Nat.zero_le _))

theorem askUnsuccessful (h : LineRanges s) : LineRanges (askUnsuccessful s) :=
  .ite (h.isolate _) ((h.congr (t := s.setMember _)).kept (.placeAsk (.refl _)))

theorem abandon (h : LineRanges s) : LineRanges (abandon s) := (h.kept (.clearJoiner (.refl s))).askUnsuccessful

theorem seriesGapOver (h : LineRanges s) : LineRanges (seriesGapOver s) := by
  unfold Machine.seriesGapOver
  dsimp only
  split
  · exact h.abandon.congr
  · exact h.abandon

theorem askDropped (h : LineRanges s) : LineRanges (askDropped s) :=
  .ite (h.congr (t := s.setMember _)).askUnsuccessful h

theorem syncEntry (h : LineRanges s) : LineRanges (syncEntry s) :=
  h.counts (Nat.zero_lt_succ _) h.collisions

theorem enterSync (h : LineRanges s) : LineRanges (enterSync s) :=
  h.syncEntry.kept (.review (.keepMark (.evaluateGate (.patienceAtSync (.workStep (.engineEntry (.refl _)))))))

theorem foundRow (h : LineRanges s) : LineRanges (foundRow s) := (h.congr (t := recordInstall 0 0 s)).enterSync

theorem bufferFrame (h : LineRanges s) (a : Adopted) (own : Bool) (sender : Nat) (b : Body) :
    LineRanges (bufferFrame a own sender b s) := .ite h.congr h.abandon

theorem replay (answerer : Nat) (buffer : List BufferEntry) :
    ∀ (done : Nat) {s : State}, LineRanges s → LineRanges (replay answerer done buffer s) := by
  induction buffer with
  | nil => exact fun _ _ h => h.congr
  | cons e rest ih =>
    exact fun done s h =>
      ih _ ((h.congr (t := runsChange answerer (e.lastRun - done) s)).kept (.applyParts (.refl _) _ _ _ _))

theorem install (h : LineRanges s) (a : Adopted) : LineRanges (install a s) :=
  have start : LineRanges (countsFromRun0 a.run0
      ((s.setReplica (snapshotReplica s.freeCount a.run0 a.runs)).setFreeCount (s.freeCount + 1))) := h.congr
  ((replay a.answerer s.member.buffer 0 start).congr (t := recordInstall a.answerer a.asker _)).enterSync

theorem collectRun (h : LineRanges s) (a : Adopted) (sender k : Nat) (payload : List Byte) :
    LineRanges (collectRun a sender k payload s) := .ite (.ite (h.install _) h.congr) h.abandon

theorem joiningFrame (h : LineRanges s) (own : Bool) (sender : Nat) (b : Body) :
    LineRanges (joiningFrame own sender b s) := by
  unfold Machine.joiningFrame
  refine .ite h (.ite (h.kept (.lateFrame (.refl s) _ _)) ?_)
  split
  · exact .ite h.congr h.congr
  · exact h
  · exact h.congr

theorem collectingFrame (h : LineRanges s) (own : Bool) (sender : Nat) (b : Body) :
    LineRanges (collectingFrame own sender b s) := by
  unfold Machine.collectingFrame
  split
  · exact .ite h.congr (h.collectRun _ _ _ _)
  · exact .ite h.congr h.abandon
  · exact h.bufferFrame _ _ _ _
  · exact h

theorem handOver (h : LineRanges s) (own : Bool) (sender : Nat) (b : Body) : LineRanges (handOver own sender b s) := by
  unfold Machine.handOver
  split
  case h_5 => exact h.joiningFrame _ _ _
  case h_6 => exact h.collectingFrame _ _ _
  case h_7 => exact h.kept (.applyLive (.refl s) _ _ _)
  all_goals exact h

theorem desync (h : LineRanges s) : LineRanges (desync s) :=
  have left : LineKept s (clearAnswerer (desyncQueue s)) := .clearAnswerer (.desyncQueue (.refl s))
  (h.kept (.clearReplica (.suspendEngine (.raise left.setMember .desync)))).joinEntry

theorem vetoRunReported (h : LineRanges s) : LineRanges (vetoRunReported s) := .ite h.desync h

theorem duplicateReported (h : LineRanges s) : LineRanges (duplicateReported s) := by
  unfold Machine.duplicateReported
  split
  case h_1 | h_2 | h_3 => exact h.isolate _
  all_goals exact h

/-! ### Rejoin -/

theorem clearQueue (h : LineRanges s) : LineRanges (clearQueue s) where
  slots src := by
    rw [clearQueue_slot]
    exact Slot.cleared_inRange (h.slots src)
  oneSending := (sendingCount_le fun src hs => by
    rw [show (Machine.clearQueue s).rli.queue.get src = (s.slot src).cleared from clearQueue_slot s src,
      Slot.cleared_isSending] at hs
    exact hs).trans h.oneSending
  vetoRun := h.vetoRun
  collisions := h.collisions

theorem rejoinStation (h : LineRanges s) : LineRanges (rejoinStation s) :=
  have cleared := ((h.kept (.clearReplica (.refl s))).kept
    (.forgetClaimFrame (.forgetRelay (.oweWaiting (.refl _))))).clearQueue
  (cleared.counts (t := State.setRli _ _) (by exact Nat.zero_lt_succ _) (by exact Nat.zero_le _)).joinEntry

/-! ### Attempts -/

theorem startSending (h : LineRanges s) (free : s.sendingSource = none) (src : Source) (f : Word16) :
    LineRanges (startSending src f s) := by
  unfold Machine.startSending
  split
  case h_1 q hq =>
    have hr := h.slots src
    rw [hq] at hr
    constructor
    · intro o
      by_cases e : o = src
      · subst e; rw [slot_setSlot_self]; exact hr
      · rw [slot_setSlot_ne s _ e]; exact h.slots o
    · exact sendingCount_le_one (src := src) fun o e =>
        (congrArg Slot.isSending (slot_setSlot_ne s _ e)).trans (no_sendingSource free o)
    · exact h.vetoRun
    · exact h.collisions
  · exact h
  · exact h

theorem startAttempt (h : LineRanges s) : LineRanges (startAttempt s) := by
  unfold Machine.startAttempt
  split
  case isFalse => exact h
  case isTrue may =>
    have free : (currentRun0 s).sendingSource = none :=
      LineKept.free (.currentRun0 (.refl s)) ((mayStart_iff s).mp may).1
    dsimp only
    split
    · exact (h.kept (.currentRun0 (.refl s))).startSending free _ _
    · exact h

theorem attemptBack (h : LineRanges s) {q : Queued} (hq : q.InRange) (src : Source) (cleared : Bool) :
    LineRanges (attemptBack src q cleared s) :=
  .ite (h.kept (.toldCleared (.setEmpty (.refl s) src) _ _))
    (h.kept (.slotWaiting (.setSlot (x := .waiting q) (.refl s) (fun _ => hq) rfl) _))

/-- The frame of a SENDING slot has its counts in their range. -/
theorem queued (h : LineRanges s) {src : Source} {q : Queued} {f : Word16} {cleared : Bool}
    (hq : s.slot src = .sending q f cleared) : q.InRange := by
  have hr := h.slots src
  rwa [hq] at hr

theorem loseArbitration (h : LineRanges s) : LineRanges (loseArbitration s) := by
  unfold Machine.loseArbitration
  split
  · exact h
  · split
    case h_1 q _ _ hq =>
      have lost : q.lost.InRange := ⟨Nat.min_le_right _ _, (h.queued hq).2⟩
      exact (h.counts (t := countArbLoss s) h.vetoRun h.collisions).attemptBack lost _ _
    · exact h
    · exact h

theorem noteCollision (h : LineRanges s) : LineRanges (noteCollision s) :=
  have h1 := h.counts (t := s.setRli { s.rli with collisions := min (s.rli.collisions + 1) Config.collisionLimit })
    h.vetoRun (Nat.min_le_right _ _)
  .ite h1.duplicateReported h1

theorem collide (h : LineRanges s) : LineRanges (collide s) := by
  unfold Machine.collide
  split
  · exact h
  · split
    case h_1 hq => exact (h.attemptBack (h.queued hq) _ _).noteCollision
    · exact h
    · exact h

theorem backAtStuck (h : LineRanges s) : LineRanges (backAtStuck s) := by
  unfold Machine.backAtStuck
  split
  · exact h
  · split
    case h_1 hq => exact h.attemptBack (h.queued hq) _ _
    · exact h
    · exact h

theorem lineSticks (h : LineRanges s) : LineRanges (lineSticks s) :=
  h.backAtStuck.counts h.backAtStuck.vetoRun (Nat.zero_le _)

/-! ### Vetoes and deliveries -/

theorem resetVetoRun (h : LineRanges s) : LineRanges (resetVetoRun s) := h.counts (Nat.zero_lt_succ _) h.collisions

theorem countVetoed (h : LineRanges s) : LineRanges (countVetoed s) := h.counts h.vetoRun h.collisions

theorem raiseVetoRun (h : LineRanges s) : LineRanges (raiseVetoRun s) := by
  unfold Machine.raiseVetoRun
  split
  case isTrue below => exact h.counts below h.collisions
  case isFalse =>
    exact (h.counts (t := s.setRli { s.rli with vetoRun := 0, permission := .withheld })
      (Nat.zero_lt_succ _) h.collisions).vetoRunReported

theorem heardVetoed (h : LineRanges s) (faulty : Bool) : LineRanges (heardVetoed faulty s) :=
  .ite h.countVetoed.raiseVetoRun (.ite h.countVetoed.resetVetoRun.abandon h.countVetoed.resetVetoRun)

theorem heardFaulty (h : LineRanges s) : LineRanges (heardFaulty s) :=
  (h.counts (t := countRxError s) h.vetoRun h.collisions).heardVetoed true

theorem toldDropped (h : LineRanges s) (src : Source) (b : Body) : LineRanges (toldDropped src b s) := by
  cases src with
  | order => exact h.kept (.forgetRelay (.refl s))
  | night => exact h.kept (.workStep (.refl s))
  | claim => exact h.kept (.claimEmptied (.unparkDropped (.claimLeft (.refl s)) _))
  | release => exact h.kept (.releaseDropped (.refl s) _)
  | reclaim => exact h.kept (.judgeWatch (.refl s))
  | mark => exact h.kept (.markDropped (.refl s))
  | ask => exact h.askDropped.kept (.askEmptied (.refl _))
  | series => exact h.kept (.seriesDropped (.refl s) _)

theorem dropFrame (h : LineRanges s) (src : Source) (q : Queued) : LineRanges (dropFrame src q s) :=
  (h.kept (.raise (.setEmpty (.refl s) src) .lineFault)).toldDropped _ _

theorem ownVetoed (h : LineRanges s) {q : Queued} (hq : q.InRange) (src : Source) (cleared : Bool) :
    LineRanges (ownVetoed src q cleared s) := by
  have h1 : LineRanges (Machine.resetVetoRun (Machine.countVetoed (s.setRli { s.rli with collisions := 0 }))) :=
    h.counts (Nat.zero_lt_succ _) (Nat.zero_le _)
  unfold Machine.ownVetoed
  dsimp only
  split
  · exact h1.dropFrame _ _
  case isFalse below =>
    cases cleared with
    | true => exact h1.kept (.toldCleared (.setEmpty (.refl _) src) _ _)
    | false =>
      have vetoed : ({ q with veto := q.veto + 1 } : Queued).InRange :=
        ⟨hq.1, Nat.lt_of_not_le fun atLimit => below ⟨rfl, atLimit⟩⟩
      exact h1.attemptBack vetoed _ _

theorem countDelivery (h : LineRanges s) (own : Bool) (sender : Nat) : LineRanges (countDelivery own sender s) :=
  have own := h.counts (t := State.setRli _ _) (by exact Nat.zero_lt_succ _) (by exact Nat.zero_le _)
  .ite (own.kept (.keepRestart (.refl _))) (h.counts (Nat.zero_lt_succ _) h.collisions)

theorem ownDelivered (h : LineRanges s) (src : Source) (q : Queued) (cleared : Bool) :
    LineRanges (ownDelivered src q cleared s) :=
  ((h.countDelivery _ _).handOver _ _ _).kept (.ownSlotEmptied (.refl _) _ _ _)

theorem heardDelivered (h : LineRanges s) (sender : Nat) (b : Body) : LineRanges (heardDelivered sender b s) :=
  (h.countDelivery _ _).handOver _ _ _

theorem frameEndsDelivered (h : LineRanges s) (f : LineFrame) : LineRanges (frameEndsDelivered f s) := by
  unfold Machine.frameEndsDelivered
  split
  · split
    · exact h
    · split
      · exact .ite (h.ownDelivered _ _ _) h
      · exact h
      · exact h
  · refine .ite ?_ h
    split
    · exact h.heardDelivered _ _
    · exact h.heardFaulty
    · exact h.heardFaulty
    · exact h

theorem frameEndsVetoed (h : LineRanges s) (f : LineFrame) : LineRanges (frameEndsVetoed f s) := by
  unfold Machine.frameEndsVetoed
  split
  · split
    · exact h
    · split
      case h_1 hq => exact .ite (h.ownVetoed (h.queued hq) _ _) h
      · exact h
      · exact h
  · refine .ite ?_ h
    split
    · exact h.heardVetoed _
    · exact h.heardFaulty
    · exact h.heardFaulty
    · exact h

/-! ### The desktop link -/

theorem busWrite (h : LineRanges s) (r : Register) {effect : State → State}
    (he : ∀ {s}, LineRanges s → LineRanges (effect s)) : LineRanges (busWrite r effect s) :=
  .ite (he h).congr h.congr

theorem busCommand (h : LineRanges s) {effect : State → State}
    (he : ∀ {s}, LineRanges s → LineRanges (effect s)) : LineRanges (busCommand effect s) :=
  h.busWrite _ fun h => .ite h (he h.congr)

theorem pointTo (h : LineRanges s) (address : BitVec 7) (b : Byte) : LineRanges (pointTo address b s) := by
  unfold Machine.pointTo
  refine .ite ?_ h.congr
  split <;> exact h.congr

theorem writeData (h : LineRanges s) (value : Byte) : LineRanges (writeData value s) :=
  have report (h : LineRanges s) : LineRanges (handReport (s.link.report ++ [value]) s) :=
    (h.congr (t := s.setLink _)).kept (.setLink (.takeReport (.refl _) _ _ _ _))
  .ite (.ite h.congr (report h)) h

theorem advanceIndex (h : LineRanges s) : LineRanges (advanceIndex s) := .ite h.congr h.congr

theorem readData (h : LineRanges s) : LineRanges (readData s) := by
  have pass : LineRanges (if s.beginsPass then beginPass s else s) :=
    .ite (.ite h.congr (.ite (h.kept (.bootRecordRead (.setLink (.refl s)))) h.congr)) h
  exact (ite pass.congr pass.congr).advanceIndex

theorem readEvents (h : LineRanges s) (position : Nat) : LineRanges (readEvents position s) := by
  have copied : LineRanges (copyEvents position s) := .ite h.congr h
  unfold Machine.readEvents
  split
  · exact h.congr
  · exact .ite copied.congr h.congr

theorem busRead (h : LineRanges s) (address : BitVec 7) (position : Nat) :
    LineRanges (busRead address position s) := by
  have ended : LineRanges (endWrite s) := h.congr
  refine .ite ?_ h.congr
  unfold readRegister
  split
  · exact ended.readData
  · exact ended.readEvents _
  all_goals exact h.congr

theorem writeEvents (h : LineRanges s) (position : Nat) (value : Byte) : LineRanges (writeEvents position value s) := by
  unfold Machine.writeEvents
  split
  · exact h
  · exact h.congr

theorem takeRejoin (h : LineRanges s) : LineRanges (takeRejoin s) := .ite h.congr h.rejoinStation.congr

theorem takeCommand (h : LineRanges s) (code argument : Byte) : LineRanges (takeCommand code argument s) :=
  .ite h.takeRejoin (.ite h.congr h.congr)

/-! ### Power and timers -/

theorem configVerdict (h : LineRanges s) (block : List Byte) :
    LineRanges (if blockValid block then configValid block s else configFault s) :=
  .ite (h.congr (t := State.setLink _ _)).joinEntry h.congr

theorem askWaitOver (h : LineRanges s) : LineRanges (askWaitOver s) :=
  .ite (h.congr (t := s.setMember _)).foundRow (h.congr (t := s.setMember _)).askUnsuccessful

theorem watchGapOver (h : LineRanges s) : LineRanges (watchGapOver s) :=
  h.kept (.endWatch (.ite (.refl s) (.stopSeries (.refl s))))

theorem claimAgeOver (h : LineRanges s) : LineRanges (claimAgeOver s) := by
  unfold Machine.claimAgeOver
  split
  · exact h.kept (.claimEmptied (.stopClaimAge (.withdraw (.refl s) _)))
  · exact h.congr
  · exact h.congr

theorem powerGoodRises (h : LineRanges s) : LineRanges (powerGoodRises s) := by
  unfold Machine.powerGoodRises
  split
  · exact h.congr
  · exact h.kept (.localEntry (.refl s))
  · exact h.kept (.localEntry (.refl s))
  all_goals exact h

theorem powerGoodFalls (h : LineRanges s) : LineRanges (powerGoodFalls s) := by
  unfold Machine.powerGoodFalls
  split
  case h_4 => exact h.kept (.finishDone (.refl s))
  case h_1 | h_2 | h_3 => exact h.kept (.failAttempt (.refl s) _)
  all_goals exact h

theorem pressBegins (h : LineRanges s) : LineRanges (pressBegins s) := by
  unfold Machine.pressBegins
  split
  case h_6 | h_7 => exact h.kept (.localEntry (.setSeq (.refl s)))
  all_goals exact h.congr

theorem pressHeldOut (h : LineRanges s) : LineRanges (pressHeldOut s) := by
  unfold Machine.pressHeldOut
  dsimp only
  split
  case h_9 | h_10 | h_11 | h_12 | h_13 => exact h.congr
  all_goals exact h.kept (.longPress (.setSeq (.setSeq (.refl s))))

theorem gatePatienceOver (h : LineRanges s) {t : State} (ht : execGatePatienceExpiry s = .next t) : LineRanges t := by
  obtain rfl := Host.Outcome.next.inj ht
  split
  · exact h.kept (.evaluateGate (.setGate (.refl s)))
  · exact h
  · exact h

theorem cold (pins : Pins) (pending : List Instr) : LineRanges (State.cold pins pending) :=
  ⟨fun src => by cases src <;> trivial, Nat.zero_le _, Nat.zero_lt_succ _, Nat.zero_le _⟩

/-! ### Every command -/

/-- What holds of the state a command answers holds of the next state. -/
theorem answered {x : State} (hx : LineRanges x)
    (h : (.next x : Host.Outcome State Fault Refusal) = .next t) : LineRanges t := by
  obtain rfl := Host.Outcome.next.inj h
  exact hx

theorem exec (hs : LineRanges s) : ∀ {c : Instr}, exec c s = .next t → LineRanges t
  | .coldStart p q r, h => answered ((cold ⟨q, p, r⟩ s.pending).congr (t := State.setFreeCount _ _)) h
  | .configReadDone block, h => answered (.ite (hs.configVerdict block) hs) h
  | .readLimitExpiry, h => answered (.ite hs.congr hs) h
  | .attemptStart, h => answered hs.startAttempt h
  | .lostArbitration, h => answered hs.loseArbitration h
  | .collision, h => answered hs.collide h
  | .lostFraming, h => answered (.ite hs.heardFaulty hs) h
  | .frameDelivered f, h => answered (hs.frameEndsDelivered f) h
  | .frameVetoed f, h => answered (hs.frameEndsVetoed f) h
  | .stuckLine, h => answered (.ite hs.lineSticks hs) h
  | .stuckLineClear, h => answered (hs.counts (t := s.setRli { s.rli with stuck := false }) hs.vetoRun hs.collisions) h
  | .orderMessage line, h => answered (.ite (hs.kept (.orderSilence (.refl s) line)) hs) h
  | .pointerWrite address byte, h => answered (hs.pointTo address byte) h
  | .viewWrite _, h => answered (hs.busWrite _ fun h => .ite h.congr h) h
  | .indexWrite _, h => answered (hs.busWrite _ fun h => h.congr) h
  | .stationWrite _, h => answered (hs.busWrite _ fun h => .ite h.congr h) h
  | .dataRead address, h => answered (hs.busRead address 0) h
  | .dataWrite value, h => answered (hs.busWrite _ fun h => h.writeData value) h
  | .eventsRead address position, h => answered (hs.busRead address position) h
  | .eventsWrite position value, h => answered (hs.busWrite _ fun h => h.writeEvents position value) h
  | .eventMaskWrite _ _, h => answered (hs.busWrite _ fun h => .ite h.congr h) h
  | .rejoin _, h => answered (hs.busCommand takeRejoin) h
  | .probe _, h => answered (hs.busCommand fun h => h.congr) h
  | .unknownCommand code argument, h => answered (hs.busCommand fun h => h.takeCommand code argument) h
  | .powerGoodRise, h => answered (.ite hs (hs.congr (t := s.setPins _)).powerGoodRises) h
  | .powerGoodFall, h => answered (.ite (hs.congr (t := s.setPins _)).powerGoodFalls hs) h
  | .supplyReqRelease, h => answered (.ite hs.congr hs.congr) h
  | .pressBegin, h => answered (.ite hs (hs.congr (t := s.setPins _)).pressBegins) h
  | .pressEnd, h => answered (.ite hs.congr hs) h
  | .pressTimerExpiry, h => answered (.ite hs.pressHeldOut hs) h
  | .askWaitExpiry, h => answered (.ite hs.askWaitOver hs) h
  | .seriesGapExpiry, h => answered (.ite hs.seriesGapOver hs) h
  | .seriesWatchGapExpiry, h => answered (.ite hs.watchGapOver hs) h
  | .seriesPauseEnd, h => answered (.ite (hs.kept (.placeRun (.refl s) _)) hs) h
  | .isolatedCooldownExpiry, h => answered (.ite hs.rejoinStation hs) h
  | .nightCountExpiry c, h => answered (.ite (hs.kept (.workStep (.expireCount (.refl s) c))) hs) h
  | .run0SecondTick, h => answered (hs.kept (.refreshRun0 (.refl s))) h
  | .claimAgeExpiry, h => answered (.ite hs.claimAgeOver hs) h
  | .keepTimerExpiry, h => answered (.ite (hs.kept (.keepMark (.setClaim (.refl s)))) hs) h
  | .lastHeardTick, h => answered (.ite hs ((hs.congr (t := s.setLastHeard _)).kept (.judgeWatch (.refl _)))) h
  | .gatePatienceExpiry, h => hs.gatePatienceOver h
  | .wakePulseEnd, h => answered hs.congr h
  | .goodLimitExpiry, h => answered (.ite (hs.kept (.failAttempt (.refl s) _)) hs) h
  | .settleExpiry, h => answered (.ite (hs.kept (.settleEnds (.refl s))) hs) h
  | .contactTimerExpiry, h => answered (.ite (hs.kept (.failAttempt (.refl s) _)) hs) h
  | .progressTimerExpiry, h => answered (.ite (hs.kept (.failAttempt (.refl s) _)) hs) h
  | .shutdownTimerExpiry, h => answered (.ite (hs.kept (.finishDone (.setSeq (.refl s)))) hs) h
  | .cooldownExpiry _, h =>
    answered (.ite ((hs.congr (t := State.setSeq (State.setPins s _) _)).kept (.cooldownEnds (.refl _))) hs) h

end LineRanges

/-- Settles O5: every command keeps the ranges, and an idle millisecond does not touch the line. -/
theorem lineRangesKept : Obligations.LineRangesKept := by
  intro s t hs h
  unfold step at h
  split at h
  · exact LineRanges.answered hs.congr h
  · exact (hs.congr (t := s.setPending _)).exec h

end Sys2Proof.Machine
end

