-- ==== Sys2Proof/Proofs/Attempts.lean ====
section
/-! PROOFS. How an attempt starts and ends on the line (R4 to R10, R19): O26, O27, O28 and O36. -/

namespace Sys2Proof.Machine

set_option Elab.async false

variable {s t : State} {src : Source} {q q' : Queued} {f : Word16} {cleared : Bool}

/-! ### A source with nothing of its own to do (R22) -/

/-- What is written of the line leaves a source as quiet as it was. -/
theorem Quiet.setRli {x : Rli} (h : s.Quiet src q) (hr : x.heldRelease = s.rli.heldRelease := by rfl)
    (hm : x.heldMark = s.rli.heldMark := by rfl) : (s.setRli x).Quiet src q := by
  cases src with
  | release => exact hr.trans h
  | mark => exact hm.trans h
  | order => trivial
  | ask => trivial
  | series => trivial
  | night => exact h
  | reclaim => exact h
  | claim => exact h

/-- R85: the wanted step waits in the night slot, or the station is not IN_SYNC. -/
theorem workStep_quiet (h : s.Quiet .night q) (hs : s.slot .night = .waiting q') (hb : q'.body = q.body) :
    workStep s = s := by
  rcases h with out | wanted
  · simp [workStep, out]
  · simp [workStep, hs, wanted, hb]

/-- R109: the overdue peer's RECLAIM waits in the reclaim slot, or the station is not IN_SYNC. -/
theorem judgeWatch_quiet (h : s.Quiet .reclaim q) (hs : s.slot .reclaim = .waiting q') (hb : q'.body = q.body) :
    judgeWatch s = s := by
  rcases h with out | ⟨n, peer, body⟩
  · simp [judgeWatch, out]
  · simp [judgeWatch, hs, peer, hb, body]

/-- R22: nothing is held back behind the release slot. -/
theorem releaseWaiting_quiet (h : s.rli.heldRelease = PerPool.all 0) : releaseWaiting s = s := by
  have none_held : clearHeldRelease s = s := by
    unfold clearHeldRelease
    rw [← h]
    rfl
  unfold releaseWaiting
  rw [none_held, h]
  rfl

/-- R22: a quiet source leaves its slot WAITING as it is. -/
theorem slotWaiting_quiet (h : s.Quiet src q) (hs : s.slot src = .waiting q') (hb : q'.body = q.body) :
    slotWaiting src s = s := by
  cases src with
  | order => rfl
  | ask => rfl
  | series => rfl
  | night => exact workStep_quiet h hs hb
  | reclaim => exact judgeWatch_quiet h hs hb
  | claim =>
    obtain ⟨wanted, young⟩ := h
    simp [slotWaiting, claimWaiting, wanted, young]
  | release => exact releaseWaiting_quiet h
  | mark =>
    have none_held : s.rli.heldMark = .none := h
    simp [slotWaiting, presentHeldMark, none_held]

/-! ### The end of an attempt (R7, R9, R16, R23) -/

/-- R7, R9: with a quiet source the slot returns to WAITING and nothing else changes. -/
theorem attemptBack_quiet (h : s.Quiet src q) (hb : q'.body = q.body := by rfl) :
    attemptBack src q' false s = s.setSlot src (.waiting q') :=
  slotWaiting_quiet (s := s.setSlot src (.waiting q')) (Quiet.setRli h) (slot_setSlot_self _ _ _) hb

/-- R23: the slot has returned to WAITING, or is EMPTY where rejoin has cleared it, when the source acts. -/
theorem attemptBack_kept (s : State) (src : Source) (q : Queued) (cleared : Bool) :
    LineKept (s.setSlot src (if cleared then .empty else .waiting q)) (attemptBack src q cleared s) := by
  cases cleared with
  | true => exact .toldCleared (.refl _) src q.body
  | false => exact .slotWaiting (.refl _) src

/-- R20: an operation of the blocks does not make a slot SENDING. -/
theorem LineKept.notSending (k : LineKept s t) (h : (s.slot src).isSending = false) : (t.slot src).isSending = false :=
  Bool.eq_false_iff.mpr fun ht => by
    rw [k.sending src ht] at h
    cases h

theorem attemptBack_notSending (s : State) (src : Source) (q : Queued) (cleared : Bool) :
    ((attemptBack src q cleared s).slot src).isSending = false :=
  (attemptBack_kept s src q cleared).notSending (by rw [slot_setSlot_self]; cases cleared <;> rfl)

/-- R23, R69: outside IN_SYNC the cleared order and reclaim slots stay EMPTY. -/
theorem attemptBack_cleared (h : src = .order ∨ src = .reclaim) (out : s.member.state ≠ .inSync) :
    (attemptBack src q true s).slot src = .empty := by
  rcases h with rfl | rfl
  · exact slot_setSlot_self s .order .empty
  · have idle : judgeWatch (s.setSlot .reclaim .empty) = s.setSlot .reclaim .empty :=
      if_pos (.inr out)
    exact (congrArg (State.slot · .reclaim) idle).trans (slot_setSlot_self s .reclaim .empty)

/-! ### Lost arbitration (R7) -/

theorem loseArbitration_sending (hs : s.sendingSource = some src) (hq : s.slot src = .sending q f cleared) :
    loseArbitration s = attemptBack src q.lost cleared (countArbLoss s) := by
  simp only [loseArbitration, hs, hq]

/-- Settles O27: the end of the attempt writes none of the line's counts but ARB_LOSSES. -/
theorem lostArbitrationReturnsTheSlot : Obligations.LostArbitrationReturnsTheSlot := by
  intro s src q f cleared hs hq
  have ends : exec .lostArbitration s = .next (attemptBack src q.lost cleared (countArbLoss s)) :=
    congrArg Host.Outcome.next (loseArbitration_sending hs hq)
  have k := attemptBack_kept (countArbLoss s) src q.lost cleared
  refine ⟨⟨_, ends, k.arbLosses, k.framesDelivered, k.framesVetoed, k.rxErrors, k.vetoRun, k.collisions, k.state,
    .attemptBack _ _ _ (.countArbLoss (.refl s)), attemptBack_notSending _ _ _ _, ?_⟩, ?_⟩
  · rintro rfl source out
    exact attemptBack_cleared source out
  · rintro rfl quiet
    have quiet' : (countArbLoss s).Quiet src q := Quiet.setRli quiet
    rw [ends, attemptBack_quiet quiet']
    rfl

/-! ### Collisions (R9, R10) -/

theorem collide_sending (hs : s.sendingSource = some src) (hq : s.slot src = .sending q f cleared) :
    collide s = noteCollision (attemptBack src q cleared s) := by
  simp only [collide, hs, hq]

/-- R10: below the limit a collision is counted and nothing else. -/
theorem noteCollision_below (h : s.rli.collisions < 2) :
    noteCollision s = s.setRli { s.rli with collisions := s.rli.collisions + 1 } := by
  have below : min (s.rli.collisions + 1) Config.collisionLimit = s.rli.collisions + 1 :=
    Nat.min_eq_left (Nat.le_succ_of_le h)
  have notThird : s.rli.collisions + 1 ≠ Config.collisionLimit := by
    simp only [Config.collisionLimit]; omega
  simp only [noteCollision, below, setRli_rli, notThird, if_false]

/-- R10, R67: the third collision in a row isolates a station in which slots contend. -/
theorem noteCollision_third (h : s.rli.collisions = 2)
    (contends : s.member.state = .joining ∨ s.member.state = .collecting ∨ s.member.state = .inSync) :
    noteCollision s = isolate true (s.setRli { s.rli with collisions := 3 }) := by
  rcases contends with m | m | m <;>
    simp [noteCollision, h, Config.collisionLimit, duplicateReported, m]

/-- R67: entry to ISOLATED leaves the queue as it is. -/
theorem isolate_slot (duplicate : Bool) (s : State) (o : Source) : (isolate duplicate s).slot o = s.slot o := by
  cases duplicate <;> rfl

/-- R67: both events of a duplicate number are raised. -/
theorem isolate_pending (s : State) :
    (isolate true s).isPending .isolated = true ∧ (isolate true s).isPending .duplicateNumber = true :=
  ⟨(raise_pending_ne _ (by decide)).trans (raise_pending_self _ _), raise_pending_self _ _⟩

/-- Settles O28: below the limit by counting, at the limit by entry to ISOLATED. -/
theorem collisionCountsAndIsolates : Obligations.CollisionCountsAndIsolates := by
  intro s src q f hs
  have ends {cleared : Bool} (hq : s.slot src = .sending q f cleared) :
      exec .collision s = .next (noteCollision (attemptBack src q cleared s)) :=
    congrArg Host.Outcome.next (collide_sending hs hq)
  refine ⟨fun hq quiet below => ?_, fun hq quiet third contends => ?_, fun hq below => ?_⟩
  · rw [ends hq, attemptBack_quiet quiet, noteCollision_below (s := s.setSlot src (.waiting q)) below]
    rfl
  · rw [ends hq, attemptBack_quiet quiet,
      noteCollision_third (s := s.setSlot src (.waiting q)) third contends]
    obtain ⟨isolated, duplicate⟩ := isolate_pending
      ((s.setSlot src (.waiting q)).setRli { (s.setSlot src (.waiting q)).rli with collisions := 3 })
    refine ⟨_, rfl, rfl, rfl, (isolate_slot _ _ _).trans (slot_setSlot_self s src _),
      fun o ho => (isolate_slot _ _ _).trans (slot_setSlot_ne s _ ho), isolated, duplicate, ?_⟩
    exact ⟨rfl, rfl, rfl, rfl, rfl, rfl, rfl, rfl, rfl, rfl, rfl, rfl, rfl, rfl, rfl, rfl, rfl, rfl, rfl⟩
  · have k := attemptBack_kept s src q true
    have below' : (attemptBack src q true s).rli.collisions < 2 := k.collisions ▸ below
    rw [ends hq, noteCollision_below below']
    refine ⟨_, rfl, congrArg (· + 1) k.collisions, attemptBack_notSending s src q true, k.state, k.framesDelivered,
      k.framesVetoed, k.arbLosses, k.rxErrors, k.vetoRun, .setRli (.attemptBack _ _ _ (.refl s)), ?_⟩
    exact fun source out => attemptBack_cleared source out

/-! ### The stuck line (R19) -/

theorem backAtStuck_free (hs : s.sendingSource = none) : backAtStuck s = s := by simp only [backAtStuck, hs]

theorem backAtStuck_sending (hs : s.sendingSource = some src) (hq : s.slot src = .sending q f cleared) :
    backAtStuck s = attemptBack src q cleared s := by simp only [backAtStuck, hs, hq]

theorem execStuckLine_receiving (h : s.receiving = true) : exec .stuckLine s = .next (lineSticks s) :=
  congrArg Host.Outcome.next (if_pos h)

/-- R19: the receiver of a stuck line reads nothing. -/
theorem receiving_stuck (h : s.rli.stuck = true) : s.receiving = false := by simp [State.receiving, h]

/-- Settles O36: the attempt under way ends first, then the condition is set; a second STUCK_LINE finds no receiver. -/
theorem stuckLineSetAndCleared : Obligations.StuckLineSetAndCleared := by
  intro s
  refine ⟨fun reads free => ?_, fun src q f reads hs hq quiet => ?_, fun stuck => ?_, rfl⟩
  · rw [execStuckLine_receiving reads]
    refine ⟨_, rfl, raise_pending_self _ _, ?_, .lineSticks (.refl s), ?_, ?_⟩ <;>
      simp only [lineSticks, backAtStuck_free free] <;> rfl
  · rw [execStuckLine_receiving reads]
    refine ⟨_, rfl, ?_, rfl, rfl, raise_pending_self _ _, .lineSticks (.refl s)⟩
    simp only [lineSticks, backAtStuck_sending hs hq, attemptBack_quiet quiet]
    exact slot_setSlot_self s src _
  · have silent : ¬ s.receiving = true := by simp [receiving_stuck stuck]
    exact congrArg Host.Outcome.next (if_neg silent)

end Sys2Proof.Machine
end

