-- ==== Sys2Proof/Proofs/Offers.lean ====
section
/-! PROOFS. Which frame an attempt offers (R4 to R8): O26. -/

namespace Sys2Proof.Machine

set_option Elab.async false

variable {s t : State} {src : Source} {q q' : Queued} {f : Word16}

/-! ### The contention field (R6) -/

/-- R6: a class is at most 3. -/
theorem kindClass_le (k : Byte) : (kindClass k).getD 3 ≤ 3 := by
  unfold kindClass
  repeat' split
  all_goals decide

/-- R6: the field holds class, wait and station number as they are. -/
theorem contentionField_toNat {cls wait station : Nat} (hc : cls ≤ 3) (hw : wait ≤ 63) (hs : station ≤ 40) :
    (contentionField cls wait station).toNat = cls * 16384 + wait * 256 + station := by
  rw [contentionField, wordOf, BitVec.toNat_ofNat]
  exact Nat.mod_eq_of_lt (by omega)

theorem fieldOf_toNat (h : s.cfg.station ≤ 40) (q : Queued) : (s.fieldOf q).toNat =
    (kindClass q.body.kind).getD 3 * 16384 + (63 - min (s.frameAge q) 63) * 256 + s.cfg.station :=
  contentionField_toNat (kindClass_le _) (Nat.sub_le _ _) h

/-! ### The lowest offer (R8) -/

theorem Slot.isWaiting_iff {x : Slot} : x.isWaiting = true ↔ ∃ q, x = .waiting q := by
  cases x <;> simp [Slot.isWaiting]

/-- R8: a source offers the field of its WAITING frame where it may contend. -/
theorem candidate_eq_some {f : Word16} : s.candidate src = some f ↔
    mayContend s.member.state src = true ∧ ∃ q, s.slot src = .waiting q ∧ f = s.fieldOf q := by
  unfold State.candidate
  cases s.slot src <;> by_cases m : mayContend s.member.state src = true <;> simp [m, eq_comm]

/-- R8: the best offer among the sources seen so far: the lowest field, ahead of equals by the order of the slots. -/
def BestAmong (s : State) (seen : List Source) : Option (Source × Word16) → Prop
  | none => ∀ o ∈ seen, s.candidate o = none
  | some (b, g) => b ∈ seen ∧ s.candidate b = some g ∧ ∀ o ∈ seen, ∀ h, s.candidate o = some h →
      g.toNat ≤ h.toNat ∧ (Source.all.idxOf o < Source.all.idxOf b → g.toNat < h.toNat)

/-- What holds of the sources seen and of one more holds of all of them. -/
theorem forall_mem_concat {P : Source → Prop} {seen : List Source} {x : Source} (hs : ∀ o ∈ seen, P o)
    (hx : P x) : ∀ o ∈ seen ++ [x], P o :=
  List.forall_mem_append.mpr ⟨hs, List.forall_mem_singleton.mpr hx⟩

/-- R8: looking at one more source, which comes after those seen. -/
theorem BestAmong.next {seen : List Source} {best : Option (Source × Word16)} {x : Source} (hb : BestAmong s seen best)
    (after : ∀ o ∈ seen, Source.all.idxOf o < Source.all.idxOf x) :
    BestAmong s (seen ++ [x]) (betterOffer s best x) := by
  have last : x ∈ seen ++ [x] := List.mem_append_right _ (List.mem_singleton.mpr rfl)
  unfold betterOffer
  cases hx : s.candidate x with
  | none =>
    cases best with
    | none => exact forall_mem_concat hb hx
    | some best =>
      obtain ⟨mem, offered, lowest⟩ := hb
      exact ⟨List.mem_append_left _ mem, offered, forall_mem_concat lowest fun h hh => by rw [hx] at hh; cases hh⟩
  | some f =>
    have own (h : Word16) (hh : s.candidate x = some h) :
        f.toNat ≤ h.toNat ∧ (Source.all.idxOf x < Source.all.idxOf x → f.toNat < h.toNat) := by
      obtain rfl := Option.some.inj (hx.symm.trans hh)
      exact ⟨Nat.le_refl _, fun before => absurd before (Nat.lt_irrefl _)⟩
    cases best with
    | none =>
      exact ⟨last, hx, forall_mem_concat (fun o ho h hh => by rw [hb o ho] at hh; cases hh) own⟩
    | some best =>
      obtain ⟨b, g⟩ := best
      obtain ⟨mem, offered, lowest⟩ := hb
      dsimp only
      split
      case isTrue lower =>
        refine ⟨last, hx, forall_mem_concat (fun o ho h hh => ?_) own⟩
        have := (lowest o ho h hh).1
        omega
      case isFalse higher =>
        refine ⟨List.mem_append_left _ mem, offered, forall_mem_concat lowest fun h hh => ?_⟩
        obtain rfl := Option.some.inj (hx.symm.trans hh)
        have := after b mem
        omega

theorem BestAmong.foldl (rest : List Source) : ∀ {seen : List Source} {best : Option (Source × Word16)},
    BestAmong s seen best → (seen ++ rest).Pairwise (fun o x => Source.all.idxOf o < Source.all.idxOf x) →
    BestAmong s (seen ++ rest) (rest.foldl (betterOffer s) best) := by
  induction rest with
  | nil => intro seen best hb _; simpa using hb
  | cons x rest ih =>
    intro seen best hb order
    rw [List.append_cons] at order ⊢
    refine ih (hb.next fun o ho => ?_) order
    exact (List.pairwise_append.mp (List.pairwise_append.mp order).1).2.2 o ho x (List.mem_singleton.mpr rfl)

/-- R8: the offer is the best among all eight sources. -/
theorem offer_best (s : State) : BestAmong s Source.all s.offer :=
  BestAmong.foldl (seen := []) Source.all (fun _ h => absurd h List.not_mem_nil) (by decide)

theorem Source.mem_all (src : Source) : src ∈ Source.all := by cases src <;> decide

/-- R8: there is no offer where no WAITING slot may contend. -/
theorem offer_eq_none (h : ∀ src q, s.slot src = .waiting q → mayContend s.member.state src = false) :
    s.offer = none := by
  have best := offer_best s
  cases ho : s.offer with
  | none => rfl
  | some offer =>
    rw [ho] at best
    obtain ⟨may, q, hq, -⟩ := candidate_eq_some.mp best.2.1
    rw [h _ q hq] at may
    cases may

/-- R8: where a WAITING slot may contend, one with the lowest field is offered. -/
theorem offer_eq_some (may : mayContend s.member.state src = true) (hq : s.slot src = .waiting q) :
    ∃ b q, s.offer = some (b, s.fieldOf q) ∧ mayContend s.member.state b = true ∧ s.slot b = .waiting q
      ∧ ∀ o q', mayContend s.member.state o = true → s.slot o = .waiting q' →
          (s.fieldOf q).toNat ≤ (s.fieldOf q').toNat
            ∧ (Source.all.idxOf o < Source.all.idxOf b → (s.fieldOf q).toNat < (s.fieldOf q').toNat) := by
  have best := offer_best s
  cases ho : s.offer with
  | none =>
    rw [ho] at best
    have offered : s.candidate src = some (s.fieldOf q) := candidate_eq_some.mpr ⟨may, q, hq, rfl⟩
    rw [best src (Source.mem_all src)] at offered
    cases offered
  | some offer =>
    obtain ⟨b, g⟩ := offer
    rw [ho] at best
    obtain ⟨-, offered, lowest⟩ := best
    obtain ⟨may_b, q, hq, rfl⟩ := candidate_eq_some.mp offered
    exact ⟨b, q, rfl, may_b, hq, fun o q' may_o hq' =>
      lowest o (Source.mem_all o) _ (candidate_eq_some.mpr ⟨may_o, q', hq', rfl⟩)⟩

/-! ### Run 0 with the values as they stand (R54) -/

/-- R54: bringing run 0 up to date writes the queue alone. -/
theorem currentRun0_eq (s : State) : ∃ x, currentRun0 s = s.setRli x := by
  unfold currentRun0
  split
  · split
    · exact ⟨_, rfl⟩
    · exact ⟨s.rli, rfl⟩
  · exact ⟨s.rli, rfl⟩
  · exact ⟨s.rli, rfl⟩

/-- R54: and no slot is WAITING for it that was not. -/
theorem currentRun0_isWaiting (s : State) (o : Source) : ((currentRun0 s).slot o).isWaiting = (s.slot o).isWaiting := by
  unfold currentRun0
  split
  case h_1 q hq =>
    split
    · by_cases e : o = .series
      · subst e; rw [slot_setSlot_self, hq]; rfl
      · rw [slot_setSlot_ne s _ e]
    · rfl
  · rfl
  · rfl

/-! ### The start of an attempt (R4, R8) -/

theorem startSending_waiting (hq : s.slot src = .waiting q) :
    startSending src f s = s.setSlot src (.sending q f false) := by
  unfold startSending; rw [hq]

/-- Settles O26: the offer is the best among the sources, and the frame offered goes out. -/
theorem attemptStartSendsLowestField : Obligations.AttemptStartSendsLowestField := by
  intro s station
  obtain ⟨x, hx⟩ := currentRun0_eq s
  have waits (o : Source) : ((s.setRli x).slot o).isWaiting = (s.slot o).isWaiting := hx ▸ currentRun0_isWaiting s o
  refine ⟨fun free clear ⟨o, q, may, hq⟩ => ?_, fun idle => ?_⟩
  · obtain ⟨q1, hq1⟩ := Slot.isWaiting_iff.mp ((waits o).trans (Slot.isWaiting_iff.mpr ⟨q, hq⟩))
    obtain ⟨b, q2, offered, may_b, hq2, lowest⟩ := offer_eq_some (s := s.setRli x) may hq1
    have goes : exec .attemptStart s = .next ((s.setRli x).setSlot b (.sending q2 (s.fieldOf q2) false)) := by
      refine congrArg Host.Outcome.next ?_
      simp only [startAttempt, (mayStart_iff s).mpr ⟨free, clear⟩, if_true, hx, offered]
      exact startSending_waiting hq2
    rw [hx]
    exact ⟨_, b, q2, s.fieldOf q2, goes, rfl, may_b, hq2, slot_setSlot_self _ _ _, fun o ho => slot_setSlot_ne _ _ ho,
      fieldOf_toNat station q2, lowest, .setSlot (.setRli (.refl s)), rfl, rfl, rfl, rfl, rfl, rfl⟩
  · refine congrArg Host.Outcome.next ?_
    unfold startAttempt
    split
    case isFalse => rfl
    case isTrue may =>
      obtain ⟨free, clear⟩ := (mayStart_iff s).mp may
      rcases idle with busy | stuck | none_waits
      · exact absurd free busy
      · rw [clear] at stuck; cases stuck
      · have nothing : (s.setRli x).offer = none := offer_eq_none fun src q hq => by
          obtain ⟨q0, hq0⟩ := Slot.isWaiting_iff.mp ((waits src).symm.trans (Slot.isWaiting_iff.mpr ⟨q, hq⟩))
          exact none_waits src q0 hq0
        simp only [hx, nothing]

end Sys2Proof.Machine
end

