-- ==== Sys2Proof/Proofs/FrameEnds.lean ====
section
/-! PROOFS. How frames end as vetoed (R11, R12, R15 to R18): O29, O30 and O35. -/

namespace Sys2Proof.Machine

set_option Elab.async false

variable {s t : State} {src : Source} {q : Queued} {f : Word16} {cleared : Bool} {g : List Group}

/-! ### Faulty frames (R11, R12, R18) -/

/-- R11, R12: the three ways in which a station finds fault with a frame end alike. -/
theorem exec_faulty {c : Instr} (frames : s.framing = true)
    (hc : c = .lostFraming ∨ ((c = .frameVetoed (.heard g) ∨ c = .frameDelivered (.heard g))
      ∧ (receive g = .malformed ∨ receive g = .lost))) : exec c s = .next (heardFaulty s) := by
  rcases hc with rfl | ⟨rfl | rfl, faulty⟩
  · exact congrArg Host.Outcome.next (if_pos frames)
  · refine congrArg Host.Outcome.next ((if_pos frames).trans ?_)
    rcases faulty with h | h <;> rw [h]
  · refine congrArg Host.Outcome.next ((if_pos frames).trans ?_)
    rcases faulty with h | h <;> rw [h]

/-- R18: a station that may veto drives the veto, and its run rises. -/
theorem heardFaulty_mayVeto (h : s.mayVeto = true) : heardFaulty s = raiseVetoRun (countVetoed (countRxError s)) :=
  if_pos ⟨rfl, h⟩

/-- R18: a station that may not veto has its run at 0. -/
theorem heardFaulty_mayNotVeto (h : s.mayVeto = false) : heardFaulty s =
    if s.member.state = .collecting then abandon (resetVetoRun (countVetoed (countRxError s)))
    else resetVetoRun (countVetoed (countRxError s)) := by
  have may_not : ¬ (true = true ∧ (countRxError s).mayVeto = true) := by
    rintro ⟨-, may⟩
    rw [show (countRxError s).mayVeto = s.mayVeto from rfl, h] at may
    cases may
  refine (if_neg may_not).trans ?_
  simp only [true_and]
  rfl

theorem raiseVetoRun_below (h : s.rli.vetoRun < 7) :
    raiseVetoRun s = s.setRli { s.rli with vetoRun := s.rli.vetoRun + 1 } :=
  if_pos (Nat.succ_lt_succ h)

/-- R18, R65: the eighth veto in a row withholds the permission, and an IN_SYNC station enters DESYNC. -/
theorem raiseVetoRun_eighth (h : s.rli.vetoRun = 7) (sync : s.InSync) :
    raiseVetoRun s = desync (s.setRli { s.rli with vetoRun := 0, permission := .withheld }) := by
  have eighth : ¬ s.rli.vetoRun + 1 < Config.vetoRunLimit := by rw [h]; decide
  exact (if_neg eighth).trans (if_pos sync)

/-- R48: placing an ask fills an EMPTY ask slot, and writes no other slot and none of the line's counts. -/
theorem placeAsk_eq (s : State) : ∃ x, placeAsk s = s.setRli x ∧ x.line = s.rli.line
    ∧ (∀ o, o ≠ .ask → x.queue.get o = s.slot o)
    ∧ (s.slot .ask = .empty → x.queue.get .ask = fresh .ask) := by
  unfold placeAsk
  split
  · exact ⟨_, rfl, rfl, fun o ho => slot_setSlot_ne s _ ho, fun _ => slot_setSlot_self s _ _⟩
  case h_2 hq => exact ⟨s.rli, rfl, rfl, fun _ _ => rfl, fun empty => by rw [empty] at hq; cases hq⟩
  case h_3 hq => exact ⟨_, rfl, rfl, fun _ _ => rfl, fun empty => by rw [empty] at hq; cases hq⟩

/-- R50, R60: an abandoned catch-up leads to a new ask below the fourth. -/
theorem abandon_below (h : s.member.askCount < 4) : ∃ x,
    abandon s = (s.setRli x).setMember { (clearJoiner s).member with state := .joining } ∧ x.line = s.rli.line
      ∧ (s.slot .ask = .empty → x.queue.get .ask = fresh .ask) := by
  obtain ⟨x, hx, line, -, ask⟩ := placeAsk_eq
    ((clearJoiner s).setMember { (clearJoiner s).member with state := .joining })
  exact ⟨x, (if_neg (Nat.not_le_of_lt h)).trans hx, line, ask⟩

/-- R8: no slot is SENDING while the receiver frames another station's frame. -/
theorem framing_free (h : s.framing = true) : s.sendingSource = none := by
  simp only [State.framing, Bool.and_eq_true, Option.isNone_iff_eq_none] at h
  exact h.2

/-- Settles O29: by whether the station may veto, and for COLLECTING by the return to JOINING. -/
theorem faultyFrameEndsVetoed : Obligations.FaultyFrameEndsVetoed := by
  intro s c g frames hc
  rw [exec_faulty frames hc]
  refine ⟨fun may below => ?_, fun may_not out => ?_, fun may_not collecting asks => ?_⟩
  · rw [heardFaulty_mayVeto may, raiseVetoRun_below (s := countVetoed (countRxError s)) below]
    rfl
  · rw [heardFaulty_mayNotVeto may_not, if_neg out]
    rfl
  · obtain ⟨x, back, line, ask⟩ := abandon_below (s := resetVetoRun (countVetoed (countRxError s))) asks
    rw [heardFaulty_mayNotVeto may_not, if_pos collecting, back]
    exact ⟨_, rfl, (congrArg Rli.rxErrors line :), (congrArg Rli.framesVetoed line :), (congrArg Rli.vetoRun line :),
      rfl, rfl, rfl, ask, rfl, rfl⟩

/-! ### DESYNC (R65, R66) -/

/-- R23: a slot that is not SENDING is EMPTY after a withdrawal. -/
theorem withdraw_slot_self (h : (s.slot src).isSending = false) : (withdraw src s).slot src = .empty := by
  unfold withdraw
  split
  · exact slot_setSlot_self s src .empty
  · assumption
  case h_3 hq => rw [hq] at h; cases h

/-- R23: a withdrawal writes the queue alone. -/
theorem withdraw_eq {a : State} (h : ∃ x, s = a.setRli x) (src : Source) : ∃ x, withdraw src s = a.setRli x := by
  obtain ⟨x, rfl⟩ := h
  unfold withdraw
  split
  · exact ⟨_, rfl⟩
  · exact ⟨x, rfl⟩
  · exact ⟨x, rfl⟩

/-- R106, R112: the pools of a WAITING RELEASE become owed; of the line, what is held back behind it is cleared. -/
theorem oweWaiting_eq (s : State) : ∃ x owed, oweWaiting s = (s.setRli x).setClaim { s.claim with owed := owed }
    ∧ x.queue = s.rli.queue
    ∧ ∀ q p, s.slot .release = .waiting q → q.body.released.get p ≠ 0 → owed.get p = true := by
  unfold oweWaiting
  split
  case h_1 q hq =>
    refine ⟨_, _, rfl, rfl, fun q' p hq' named => ?_⟩
    obtain rfl := Slot.waiting.inj (hq.symm.trans hq')
    by_cases held : s.rli.heldRelease.get p = 0 <;> simp [namedPools, mergeUnits, held, named]
  case h_2 hq => exact ⟨s.rli, s.claim.owed, rfl, rfl, fun q p hq' => by rw [hq] at hq'; cases hq'⟩
  case h_3 hq => exact ⟨s.rli, s.claim.owed, rfl, rfl, fun q p hq' => by rw [hq] at hq'; cases hq'⟩

/-- R66, 1: the queue at DESYNC: the relay is lost, the pools of a queued RELEASE are owed. -/
theorem desyncQueue_eq (s : State) : ∃ x owed,
    desyncQueue s = ((s.setRli x).setClaim { s.claim with owed := owed }).setNight { s.night with relay := none }
      ∧ ∀ q p, s.slot .release = .waiting q → q.body.released.get p ≠ 0 → owed.get p = true := by
  obtain ⟨x, owed, owing, -, named⟩ := oweWaiting_eq s
  have start : ∃ x, forgetRelay (oweWaiting s) = (forgetRelay (oweWaiting s)).setRli x :=
    ⟨(forgetRelay (oweWaiting s)).rli, rfl⟩
  obtain ⟨y, hy⟩ := withdraw_eq (withdraw_eq (withdraw_eq (withdraw_eq (withdraw_eq (withdraw_eq start
    .order) .night) .claim) .release) .reclaim) .series
  have left : desyncQueue s = (forgetRelay (oweWaiting s)).setRli y := hy
  exact ⟨y, owed, by rw [left, owing]; rfl, named⟩

/-- R66, 1: every WAITING slot but mark and ask is withdrawn. -/
theorem desyncQueue_slot (free : s.sendingSource = none) (mark : src ≠ .mark) (ask : src ≠ .ask) :
    (desyncQueue s).slot src = .empty := by
  have k : LineKept s (forgetRelay (oweWaiting s)) := .forgetRelay (.oweWaiting (.refl s))
  have idle (o : Source) : ((forgetRelay (oweWaiting s)).slot o).isSending = false :=
    k.notSending (no_sendingSource free o)
  unfold desyncQueue
  cases src with
  | mark => exact absurd rfl mark
  | ask => exact absurd rfl ask
  | order => simp [withdraw_slot_ne, withdraw_slot_self, idle]
  | night => simp [withdraw_slot_ne, withdraw_slot_self, idle]
  | claim => simp [withdraw_slot_ne, withdraw_slot_self, idle]
  | release => simp [withdraw_slot_ne, withdraw_slot_self, idle]
  | reclaim => simp [withdraw_slot_ne, withdraw_slot_self, idle]
  | series => simp [withdraw_slot_ne, withdraw_slot_self, idle]

/-- R66, 1: the mark and ask slots stay as they are. -/
theorem desyncQueue_slot_kept (h : src = .mark ∨ src = .ask) : (desyncQueue s).slot src = s.slot src := by
  obtain ⟨x, owed, owing, queue, -⟩ := oweWaiting_eq s
  have same : (forgetRelay (oweWaiting s)).slot src = s.slot src := by
    rw [owing]; exact congrArg (Queue.get · src) queue
  rcases h with rfl | rfl <;> simp [desyncQueue, withdraw_slot_ne, same]

/-- R48: entry to JOINING. -/
theorem joinEntry_eq (s : State) : ∃ x,
    joinEntry s = (s.setRli x).setMember { (clearJoiner s).member with state := .joining, askCount := 0 }
      ∧ x.line = s.rli.line ∧ (∀ o, o ≠ .ask → x.queue.get o = s.slot o)
      ∧ (s.slot .ask = .empty → x.queue.get .ask = fresh .ask) := by
  obtain ⟨x, hx, line, others, ask⟩ := placeAsk_eq
    ((clearJoiner s).setMember { (clearJoiner s).member with state := .joining, askCount := 0 })
  exact ⟨x, hx, line, others, ask⟩

/-- R65, R66: what DESYNC leaves before JOINING is entered, d being the state with the queue withdrawn: the answerer
cleared, the watch emptied, the engine suspended and the replica cold. -/
def desyncLeft (d : State) : State :=
  clearReplica (suspendEngine (raise .desync
    ((clearAnswerer d).setMember { (clearAnswerer d).member with watch := none })))

theorem desync_eq (s : State) : desync s = joinEntry (desyncLeft (desyncQueue s)) := rfl

theorem desyncLeft_pending (d : State) : (desyncLeft d).isPending .desync = true :=
  raise_pending_self .desync ((clearAnswerer d).setMember { (clearAnswerer d).member with watch := none })

/-- R18: what the eighth veto has written of the line when DESYNC is entered. -/
def eighthVeto (s : State) : State := s.setRli { s.rli with
  rxErrors := s.rli.rxErrors + 1, framesVetoed := s.rli.framesVetoed + 1, vetoRun := 0, permission := .withheld }

/-- R18, R65: the eighth veto of an IN_SYNC station. -/
theorem heardFaulty_eighth (may : s.mayVeto = true) (run : s.rli.vetoRun = 7) (sync : s.InSync) :
    heardFaulty s = desync (eighthVeto s) :=
  (heardFaulty_mayVeto may).trans (raiseVetoRun_eighth (s := countVetoed (countRxError s)) run sync)

/-- Settles O30: DESYNC is entered with the queue withdrawn, and left for JOINING in the same step. -/
theorem eighthVetoEntersDesync : Obligations.EighthVetoEntersDesync := by
  intro s c g frames hc may run sync
  have free : (eighthVeto s).sendingSource = none := framing_free frames
  have line : (desyncQueue (eighthVeto s)).rli.line = (eighthVeto s).rli.line :=
    (LineKept.desyncQueue (.refl (eighthVeto s))).line
  have emptied {src : Source} := desyncQueue_slot (s := eighthVeto s) (src := src) free
  have left {src : Source} := desyncQueue_slot_kept (s := eighthVeto s) (src := src)
  obtain ⟨x, owed, queue, named⟩ := desyncQueue_eq (eighthVeto s)
  rw [exec_faulty frames hc, heardFaulty_eighth may run sync, desync_eq]
  generalize desyncQueue (eighthVeto s) = d at line emptied left queue ⊢
  obtain ⟨y, joins, counts, others, ask⟩ := joinEntry_eq (desyncLeft d)
  have all : y.line = (eighthVeto s).rli.line := counts.trans line
  rw [joins]
  subst queue
  exact ⟨_, rfl, rfl, rfl, (congrArg Rli.permission all :), (congrArg Rli.vetoRun all :),
    (congrArg Rli.collisions all :), desyncLeft_pending _, rfl,
    fun src mark ask => (others src ask).trans (emptied mark ask),
    (others .mark (by decide)).trans (left (.inl rfl)),
    fun empty => ask ((left (.inr rfl)).trans empty),
    rfl, rfl, rfl, rfl, rfl, rfl, rfl, rfl, rfl, rfl, rfl, rfl, named, rfl, rfl, rfl⟩

end Sys2Proof.Machine
end

