-- ==== Sys2Proof/Proofs/Deliveries.lean ====
section
/-! PROOFS. How whole frames end (R14 to R17): O31 and O32 at delivery, O35 at a veto. -/

namespace Sys2Proof.Machine

set_option Elab.async false

variable {s t : State} {src : Source} {q : Queued} {f : Word16} {cleared : Bool} {g : List Group} {n : Nat} {b : Body}

/-! ### Hand-over (R46) -/

theorem handOver_inSync (h : s.InSync) (own : Bool) : handOver own n b s = applyLive own n b s := by
  simp only [handOver, show s.member.state = .inSync from h]

/-- R46: an ISOLATED or UNCONFIGURED station sets the frame aside. -/
theorem handOver_aside (h : s.member.state = .isolated ∨ s.member.state = .unconfigured) (own : Bool) :
    handOver own n b s = s := by
  rcases h with h | h <;> simp only [handOver, h]

/-- R49: an own frame delivered while JOINING is judged by its source alone. -/
theorem handOver_joining_own (h : s.member.state = .joining) : handOver true n b s = s := by
  simp only [handOver, h]
  rfl

/-- R36: what an application writes beside the replica is told to the blocks. -/
theorem Kept.applyLive (own : Bool) (n : Nat) (b : Body) (s : State) :
    Kept (s.setReplica (applyFrame s.replica n b).1) (applyLive own n b s) := by
  have parts : Kept (s.setReplica (applyFrame s.replica n b).1) (applyParts own n b 0 s) :=
    .engineNotice _ _ _ _ (.ite (.nightApplied _ _ (.refl _)) (.refl _))
  have noticed := Kept.ite (c := nightChanged b (applyFrame s.replica n b).2 = true)
    (.nightNotices b (.rereadParked s parts)) (.rereadParked s parts)
  exact .judgeWatch (.catchUpNotice _ _ _ (.ite (.evaluateGate noticed) noticed))

/-! ### What a delivery counts (R14, R18, R35) -/

/-- R14: a received frame is counted, its sender's age reset and the veto run cleared. -/
def heardCounted (n : Nat) (s : State) : State :=
  (s.setRli { s.rli with framesDelivered := s.rli.framesDelivered + 1, vetoRun := 0 }).setLastHeard
    (resetAge s.lastHeard n)

/-- R10, R14: an own frame too, and the collision count is cleared. -/
def ownCounted (n : Nat) (s : State) : State :=
  (s.setRli { s.rli with framesDelivered := s.rli.framesDelivered + 1, vetoRun := 0, collisions := 0 }).setLastHeard
    (resetAge s.lastHeard n)

theorem countDelivery_heard (s : State) (n : Nat) : countDelivery false n s = heardCounted n s := rfl

theorem countDelivery_own (s : State) (n : Nat) : countDelivery true n s = keepRestart (ownCounted n s) := rfl

/-- R107: the keep timer is the Claim Engine's. -/
theorem keepRestart_eq (s : State) : ∃ x, keepRestart s = s.setClaim x := by
  unfold keepRestart
  split
  · exact ⟨_, rfl⟩
  · exact ⟨s.claim, rfl⟩

/-! ### A frame delivered (R14) -/

theorem exec_heardDelivered (frames : s.framing = true) (whole : receive g = .whole n b) :
    exec (.frameDelivered (.heard g)) s = .next (heardDelivered n b s) :=
  congrArg Host.Outcome.next ((if_pos frames).trans (by rw [whole]))

theorem exec_ownDelivered (reads : s.receiving = true) (hs : s.sendingSource = some src)
    (hq : s.slot src = .sending q f cleared) :
    exec (.frameDelivered .own) s = .next (ownDelivered src q cleared s) := by
  refine congrArg Host.Outcome.next ?_
  simp only [frameEndsDelivered, hs, hq, reads, if_true]

/-- Settles O31: counted first, then handed over. -/
theorem deliveredFrameIsHandedOver : Obligations.DeliveredFrameIsHandedOver := by
  intro s g n b frames whole
  rw [exec_heardDelivered frames whole]
  refine ⟨fun sync => ?_, fun out => ?_⟩
  · rw [heardDelivered, handOver_inSync (by exact sync), countDelivery_heard]
    have kept := Kept.applyLive false n b (heardCounted n s)
    have k := LineKept.applyLive (.refl (heardCounted n s)) false n b
    exact ⟨_, rfl, kept.replica, kept.lastHeard, k.framesDelivered, k.vetoRun, k.framesVetoed, k.rxErrors,
      k.state.trans sync, kept.cfg, kept.pins⟩
  · rw [heardDelivered, handOver_aside (by exact out), countDelivery_heard]
    rfl

/-- R14: after the hand-over the own slot is SENDING no longer. -/
theorem ownSlotEmptied_notSending (s : State) (src : Source) (b : Body) :
    ((ownSlotEmptied src b false s).slot src).isSending = false :=
  (LineKept.toldDelivered (.refl (s.setSlot src .empty)) src b).notSending (by rw [slot_setSlot_self]; rfl)

/-- R49: this station's own ask delivered while JOINING. -/
theorem toldDelivered_ask (joining : s.member.state = .joining) (owed : s.rli.askOwed = false) (b : Body) :
    toldDelivered .ask b s = s.setMember { s.member with
      askCount := s.member.askCount + 1, askWait := .running Config.askWait
      onlyAsks := s.member.lateRun != .heard, lateRun := .none } := by
  simp only [toldDelivered, askDelivered, joining, if_true, askEmptied, setMember_rli, owed, Bool.false_eq_true,
    if_false]

/-- Settles O32: counted and handed over, then the source is told. -/
theorem ownFrameDelivered : Obligations.OwnFrameDelivered := by
  intro s src q f reads hs hq
  rw [exec_ownDelivered reads hs hq, ownDelivered, countDelivery_own]
  obtain ⟨x, hx⟩ := keepRestart_eq (ownCounted s.cfg.station s)
  rw [hx]
  refine ⟨fun sync => ?_, fun joining ask owed => ?_⟩
  · rw [handOver_inSync (by exact sync)]
    have kept := Kept.ownSlotEmptied src q.body false
      (Kept.applyLive true s.cfg.station q.body ((ownCounted s.cfg.station s).setClaim x))
    have k := LineKept.ownSlotEmptied (.applyLive (.refl ((ownCounted s.cfg.station s).setClaim x)) true
      s.cfg.station q.body) src q.body false
    exact ⟨_, rfl, kept.replica, kept.lastHeard, k.framesDelivered, k.vetoRun, k.collisions,
      ownSlotEmptied_notSending _ _ _⟩
  · subst ask
    rw [handOver_joining_own (by exact joining), ownSlotEmptied, if_neg Bool.false_ne_true,
      toldDelivered_ask (by exact joining) (by exact owed)]
    exact ⟨_, rfl, joining, rfl, rfl, bne_iff_ne, rfl, slot_setSlot_self s .ask .empty, rfl⟩

/-! ### A frame vetoed (R15 to R17) -/

theorem exec_heardVetoed (frames : s.framing = true) (whole : receive g = .whole n b) :
    exec (.frameVetoed (.heard g)) s = .next (heardVetoed false s) :=
  congrArg Host.Outcome.next ((if_pos frames).trans (by rw [whole]))

theorem exec_ownVetoed (reads : s.receiving = true) (hs : s.sendingSource = some src)
    (hq : s.slot src = .sending q f cleared) :
    exec (.frameVetoed .own) s = .next (ownVetoed src q cleared s) := by
  refine congrArg Host.Outcome.next ?_
  simp only [frameEndsVetoed, hs, hq, reads, if_true]

/-- R10, R15, R18: what the veto of an own frame counts. -/
def vetoCounted (s : State) : State :=
  s.setRli { s.rli with framesVetoed := s.rli.framesVetoed + 1, vetoRun := 0, collisions := 0 }

/-- R16: below the limit the slot returns to WAITING with its veto count risen. -/
theorem ownVetoed_below (h : q.veto < 15) (quiet : s.Quiet src q) :
    ownVetoed src q false s = (vetoCounted s).setSlot src (.waiting { q with veto := q.veto + 1 }) := by
  have below : ¬ (false = false ∧ Config.vetoLimit ≤ q.veto + 1) := by
    rintro ⟨-, limit⟩
    simp only [Config.vetoLimit] at limit
    omega
  exact (if_neg below).trans (attemptBack_quiet (s := vetoCounted s) (q := q) (Quiet.setRli quiet))

/-- R17: at the sixteenth veto the frame is dropped. -/
theorem ownVetoed_sixteenth (h : q.veto = 15) : ownVetoed src q false s =
    toldDropped src q.body (raise .lineFault ((vetoCounted s).setSlot src .empty)) :=
  if_pos ⟨rfl, Nat.le_of_eq (congrArg (· + 1) h.symm)⟩

/-- R50: a dropped ask leaves the line as it was, or isolates the station. -/
theorem askDropped_cases (s : State) : LineKept s (askDropped s)
    ∨ askDropped s = isolate false (s.setMember { s.member with askCount := s.member.askCount + 1 }) := by
  unfold askDropped askUnsuccessful
  split
  case isFalse => exact .inl (.refl s)
  case isTrue joining =>
    split
    · exact .inr rfl
    · exact .inl (.placeAsk (.setMember (.refl s) joining.symm))

/-- R17: what a source does when its frame is dropped, where no collision is counted: the line's counts stay, a pending
event stays pending, and no slot becomes SENDING. -/
theorem toldDropped_kept (none_counted : s.rli.collisions = 0) (src : Source) (b : Body) :
    (toldDropped src b s).rli.line = s.rli.line
      ∧ (∀ e, s.isPending e = true → (toldDropped src b s).isPending e = true)
      ∧ ∀ o, (s.slot o).isSending = false → ((toldDropped src b s).slot o).isSending = false := by
  have of_kept {u : State} (k : LineKept s u) : u.rli.line = s.rli.line
      ∧ (∀ e, s.isPending e = true → u.isPending e = true)
      ∧ ∀ o, (s.slot o).isSending = false → (u.slot o).isSending = false :=
    ⟨k.line, k.pending, fun _ h => k.notSending h⟩
  cases src with
  | order => exact of_kept (.forgetRelay (.refl s))
  | night => exact of_kept (.workStep (.refl s))
  | claim => exact of_kept (.claimEmptied (.unparkDropped (.claimLeft (.refl s)) _))
  | release => exact of_kept (.releaseDropped (.refl s) _)
  | reclaim => exact of_kept (.judgeWatch (.refl s))
  | mark => exact of_kept (.markDropped (.refl s))
  | series => exact of_kept (.seriesDropped (.refl s) _)
  | ask =>
    rcases askDropped_cases s with k | isolated
    · exact of_kept k.askEmptied
    · have k : LineKept (isolate false (s.setMember { s.member with askCount := s.member.askCount + 1 }))
          (toldDropped .ask b s) := isolated ▸ .askEmptied (.refl (askDropped s))
      refine ⟨k.line.trans ?_, fun e he => k.pending e ?_, fun o ho => k.notSending ?_⟩
      · show ({ s.rli with collisions := 0 } : Rli).line = s.rli.line
        rw [← none_counted]
      · exact (LineKept.raise (.refl (s.setMember s.member)) .isolated).pending e he
      · exact ho

/-- R126: the mark source places a MARK again at once, with the values as they stand. -/
theorem markDropped_slot (h : s.slot .mark = .empty) : (markDropped s).slot .mark = fresh s.markBody := by
  have empty : (s.setRli { s.rli with heldMark := .none }).slot .mark = .empty := h
  simp only [markDropped, putMark, empty]
  exact slot_setSlot_self _ _ _

/-- Settles O35: by the frame's veto count. -/
theorem vetoedFrameRetriesOrDrops : Obligations.VetoedFrameRetriesOrDrops := by
  intro s
  refine ⟨fun g n b frames whole => exec_heardVetoed frames whole, fun src q f reads hs hq => ?_⟩
  rw [exec_ownVetoed reads hs hq]
  refine ⟨fun below quiet => by rw [ownVetoed_below below quiet]; rfl, fun limit => ?_⟩
  have kept : Kept s (ownVetoed src q false s) := .ownVetoed src q false (.refl s)
  rw [ownVetoed_sixteenth limit] at kept ⊢
  obtain ⟨line, pending, sending⟩ := toldDropped_kept
    (s := raise .lineFault ((vetoCounted s).setSlot src .empty)) rfl src q.body
  have emptied : ((vetoCounted s).setSlot src .empty).slot src = .empty := slot_setSlot_self _ _ _
  refine ⟨_, rfl, pending _ (raise_pending_self _ _), (congrArg Rli.framesVetoed line :),
    (congrArg Rli.vetoRun line :), (congrArg Rli.collisions line :), sending src (congrArg Slot.isSending emptied),
    ?_, ?_, kept.replica⟩
  · rintro rfl
    exact ⟨emptied, rfl⟩
  · rintro rfl
    exact markDropped_slot emptied

end Sys2Proof.Machine
end

