-- ==== Sys2Proof/Proofs/Formats.lean ====
section
/-! PROOFS. Frames on the wire (R1 to R3, R6, R11, R179): O11 and O10. -/

namespace Sys2Proof.Machine

set_option Elab.async false

/-! ### The levels of a frame (R1, R2, R3) -/

/-- R2: a spacer is the opposite of the bit before it. -/
theorem requiredSpacer_ne (b : Byte) : levelOf (b.getLsbD 0) ≠ requiredSpacer b := by
  unfold levelOf requiredSpacer
  split <;> decide

/-- R3: the levels of groups after the level that went before them: the start bit, or a spacer. -/
def levelsFrom (before : Level) (groups : List Group) : List Level := before :: groups.flatMap groupLevels

theorem frameLevels_eq (groups : List Group) : frameLevels groups = levelsFrom .dominant groups := rfl

/-- R2: nine bit times on, the levels go on from the spacer of the first group. -/
theorem levelsFrom_cons (before : Level) (g : Group) (groups : List Group) : levelsFrom before (g :: groups) =
    (before :: [7, 6, 5, 4, 3, 2, 1, 0].map fun i => levelOf (g.byte.getLsbD i)) ++ levelsFrom g.spacer groups := rfl

theorem levelsFrom_length (before : Level) (groups : List Group) :
    (levelsFrom before groups).length = 1 + 9 * groups.length := by
  induction groups generalizing before with
  | nil => rfl
  | cons g groups ih =>
    rw [levelsFrom_cons, List.length_append, ih]
    simp only [List.length_cons, List.length_map, List.length_nil]
    omega

/-- R2: among ten bit times of groups as sent there is a spacer, whose level is not that of the bit before it. -/
theorem levelsFrom_turns (bytes : List Byte) : ∀ (before : Level) (p : Nat),
    p + 9 < (levelsFrom before (bytes.map sentGroup)).length →
    ∃ i, i < 9 ∧ (levelsFrom before (bytes.map sentGroup))[p + i]?
      ≠ (levelsFrom before (bytes.map sentGroup))[p + i + 1]? := by
  induction bytes with
  | nil =>
    intro before p h
    rw [levelsFrom_length] at h
    simp only [List.map_nil, List.length_nil] at h
    omega
  | cons b bytes ih =>
    intro before p h
    rw [List.map_cons, levelsFrom_cons] at h ⊢
    by_cases near : p < 9
    · refine ⟨8 - p, by omega, ?_⟩
      rw [show p + (8 - p) = 8 by omega]
      exact fun same => requiredSpacer_ne b (Option.some.inj same)
    · obtain ⟨i, hi, turn⟩ := ih (sentGroup b).spacer (p - 9) (by
        simp only [List.length_append, List.length_cons, List.length_map, List.length_nil] at h
        omega)
      refine ⟨i, hi, ?_⟩
      rw [List.getElem?_append_right (by simp only [List.length_cons, List.length_map, List.length_nil]; omega),
        List.getElem?_append_right (by simp only [List.length_cons, List.length_map, List.length_nil]; omega)]
      simp only [List.length_cons, List.length_map, List.length_nil]
      rw [show p + i - 9 = p - 9 + i by omega, show p + i + 1 - 9 = p - 9 + i + 1 by omega]
      exact turn

/-- R3: six groups beside the body's: the field, the kind, the length and the check. -/
theorem wireGroups_eq (field : Word16) (b : Body) : wireGroups field b =
    ([hi8 field, lo8 field, b.kind, byteOf b.bytes.length] ++ b.bytes
      ++ bytes16 (crc ([hi8 field, lo8 field, b.kind, byteOf b.bytes.length] ++ b.bytes))).map sentGroup := rfl

theorem wireGroups_length (field : Word16) (b : Body) : (wireGroups field b).length = 6 + b.bytes.length := by
  simp only [wireGroups_eq, bytes16, List.length_map, List.length_append, List.length_cons, List.length_nil]
  omega

/-- Settles O11: a spacer is met in any ten bit times, and each group takes nine. -/
theorem framesAsSent : Obligations.FramesAsSent := by
  intro field b
  refine ⟨fun p h => levelsFrom_turns _ .dominant p h, ?_⟩
  rw [frameLevels_eq, levelsFrom_length, wireGroups_length]
  omega

/-! ### Byte order (R179) -/

/-- R179: a two-byte field is read as it is laid out. -/
@[simp] theorem be16_bytes (w : Word16) : be16 (hi8 w) (lo8 w) = w := by
  unfold be16 hi8 lo8
  ext i hi
  simp only [BitVec.getElem_append, BitVec.getElem_extractLsb']
  grind

/-- R179: and so is a four-byte field. -/
@[simp] theorem be32_bytes (w : Word32) :
    be32 (w.extractLsb' 24 8) (w.extractLsb' 16 8) (w.extractLsb' 8 8) (w.extractLsb' 0 8) = w := by
  unfold be32 be16
  ext i hi
  simp only [BitVec.getElem_append, BitVec.getElem_extractLsb']
  grind

section

variable {cls wait station : Nat} (hc : cls ≤ 3) (hw : wait ≤ 63) (hs : station ≤ 40)
include hc hw hs

/-- R6: the sender is read from the second byte of the contention field. -/
theorem contentionField_station : (lo8 (contentionField cls wait station)).toNat = station := by
  rw [lo8, BitVec.extractLsb'_toNat, contentionField_toNat hc hw hs, Nat.shiftRight_zero]
  omega

/-- R6: the class is read from the two high bits of the first byte. -/
theorem contentionField_class : (hi8 (contentionField cls wait station) >>> 6).toNat = cls := by
  rw [BitVec.toNat_ushiftRight, hi8, BitVec.extractLsb'_toNat, contentionField_toNat hc hw hs]
  simp only [Nat.shiftRight_eq_div_pow]
  omega

end

/-! ### Bodies (R11, 10.3) -/

/-- 10.2: a kind of no class is none of the table's. -/
theorem readBody_unknown {k : Byte} (h : kindClass k = none) (bytes : List Byte) :
    readBody k bytes = .unknown k bytes := by
  have other (j : Byte) (known : kindClass j ≠ none) : k ≠ j := fun e => known (e ▸ h)
  simp only [readBody, if_false, other 0x11 (by decide), other 0x12 (by decide), other 0x21 (by decide),
    other 0x22 (by decide), other 0x23 (by decide), other 0x24 (by decide), other 0x25 (by decide),
    other 0x31 (by decide), other 0x41 (by decide), other 0x42 (by decide)]

/-- R11: a STATE_RUN that a frame can carry has 19, 20 or 24 body bytes. -/
theorem runLength_le {index n : Nat} (h : runLength index = some n) : n ≤ 24 := by
  unfold runLength at h
  split at h
  · cases h; decide
  split at h
  · cases h; decide
  split at h
  · cases h; decide
  · cases h

/-- R3: a body that a frame can carry has at most 24 bytes. -/
theorem Body.bytes_length_le {b : Body} (h : b.Sendable) : b.bytes.length ≤ 24 := by
  cases b with
  | run asker index payload => exact runLength_le h
  | unknown k bytes => exact h.2
  | _ => simp [Body.bytes, bytes16, bytes32]

/-- R11: and, being of a known kind, that kind's length. -/
theorem Body.lengthOk {b : Body} (h : b.Sendable) (known : kindClass b.kind ≠ none) :
    bodyLengthOk b.kind b.bytes = true := by
  cases b with
  | run asker index payload => exact beq_iff_eq.mpr h
  | unknown k bytes => exact absurd h.1 known
  | _ => rfl

/-- 10.3: the bytes of a body spell that body. -/
theorem readBody_bytes {b : Body} (h : b.Sendable) : readBody b.kind b.bytes = b := by
  cases b with
  | unknown k bytes => exact readBody_unknown h.1 bytes
  | _ => simp [readBody, Body.kind, Body.bytes, bytes16, bytes32]

/-! ### Reception (R11, R12) -/

/-- R12: no spacer as sent is found recessive where dominant was required. -/
theorem spacerLost_sent (bytes : List Byte) : (bytes.map sentGroup).any spacerLost = false := by
  rw [List.any_eq_false]
  intro g hg
  obtain ⟨b, -, rfl⟩ := List.mem_map.mp hg
  simp only [spacerLost, sentGroup]
  cases requiredSpacer b <;> decide

/-- R11: nor dominant where recessive was. -/
theorem spacerBad_sent (bytes : List Byte) : (bytes.map sentGroup).any spacerBad = false := by
  rw [List.any_eq_false]
  intro g hg
  obtain ⟨b, -, rfl⟩ := List.mem_map.mp hg
  simp only [spacerBad, sentGroup]
  cases requiredSpacer b <;> decide

/-- R11, R12: what a receiver makes of as many groups as the length asks for, with no spacer at the wrong level. -/
theorem receive_framed {c0 c1 k l : Group} {rest : List Group} {body : List Byte} {k1 k0 : Byte}
    (count : (c0 :: c1 :: k :: l :: rest).length = groupCount l.byte)
    (lost : (c0 :: c1 :: k :: l :: rest).any spacerLost = false)
    (bad : (c0 :: c1 :: k :: l :: rest).any spacerBad = false)
    (bodyRead : (rest.map Group.byte).take (min l.byte.toNat Config.maxBody) = body)
    (checkRead : (rest.map Group.byte).drop (min l.byte.toNat Config.maxBody) = [k1, k0]) :
    receive (c0 :: c1 :: k :: l :: rest) =
      if frameMalformed c0.byte c1.byte k.byte l.byte body (be16 k1 k0) then .malformed
      else .whole c1.byte.toNat (readBody k.byte body) := by
  unfold receive
  dsimp only
  rw [if_neg (not_not_intro count), if_neg (Bool.eq_false_iff.mp lost), checkRead, bodyRead]
  dsimp only
  rw [bad, Bool.false_or]

/-- R11: what a receiver makes of groups as sent is decided by the tests of the frame's parts. -/
theorem receive_sent (c0 c1 k l : Byte) (body : List Byte) (check : Word16) (hl : l.toNat = body.length)
    (short : body.length ≤ 24) : receive (([c0, c1, k, l] ++ body ++ bytes16 check).map sentGroup) =
      if frameMalformed c0 c1 k l body check then .malformed else .whole c1.toNat (readBody k body) := by
  have count : (([c0, c1, k, l] ++ body ++ bytes16 check).map sentGroup).length = groupCount l := by
    simp only [groupCount, hl, Config.maxBody, Nat.min_eq_left short, bytes16, List.length_map, List.length_append,
      List.length_cons, List.length_nil]
    omega
  have data : ((body ++ bytes16 check).map sentGroup).map Group.byte = body ++ bytes16 check :=
    List.map_map.trans (List.map_id _)
  have covered : min l.toNat Config.maxBody = body.length := by rw [hl]; exact Nat.min_eq_left short
  have read := receive_framed (c0 := sentGroup c0) (c1 := sentGroup c1) (k := sentGroup k) (l := sentGroup l)
    (rest := (body ++ bytes16 check).map sentGroup) (body := body) (k1 := hi8 check) (k0 := lo8 check) count
    (spacerLost_sent ([c0, c1, k, l] ++ body ++ bytes16 check))
    (spacerBad_sent ([c0, c1, k, l] ++ body ++ bytes16 check))
    (by rw [data, show (sentGroup l).byte = l from rfl, covered, List.take_left])
    (by rw [data, show (sentGroup l).byte = l from rfl, covered, List.drop_left]; rfl)
  rw [be16_bytes] at read
  exact read

/-- R6, R11: a sent frame passes every test of its receiver. -/
theorem frameMalformed_sent {cls wait station : Nat} {b : Body} (hc : cls ≤ 3) (hw : wait ≤ 63) (h1 : 1 ≤ station)
    (hs : station ≤ 40) (sendable : b.Sendable) (hk : kindClass b.kind = some cls ∨ kindClass b.kind = none) :
    frameMalformed (hi8 (contentionField cls wait station)) (lo8 (contentionField cls wait station)) b.kind
      (byteOf b.bytes.length) b.bytes (crc ([hi8 (contentionField cls wait station),
        lo8 (contentionField cls wait station), b.kind, byteOf b.bytes.length] ++ b.bytes)) = false := by
  have sender := contentionField_station hc hw hs
  have length : (byteOf b.bytes.length).toNat = b.bytes.length := by
    have := Body.bytes_length_le sendable
    simp only [byteOf, BitVec.toNat_ofNat]
    omega
  have short : ¬ 24 < b.bytes.length := Nat.not_lt_of_le (Body.bytes_length_le sendable)
  have inRow : ¬ 40 < station := Nat.not_lt_of_le hs
  unfold frameMalformed
  rw [sender, length]
  rcases hk with known | unknown
  · have lengthOk := Body.lengthOk sendable (by simp [known])
    simp [known, contentionField_class hc hw hs, lengthOk, Config.stations, Config.maxBody, short, inRow,
      Nat.ne_of_gt h1]
  · simp [unknown, Config.stations, Config.maxBody, short, inRow, Nat.ne_of_gt h1]

/-- Settles O10: the frame is whole, passes the tests, and its bytes spell its body. -/
theorem receiverReadsWhatIsSent : Obligations.ReceiverReadsWhatIsSent := by
  intro cls wait station b hc hw h1 hs sendable hk
  have short := Body.bytes_length_le sendable
  have length : (byteOf b.bytes.length).toNat = b.bytes.length := by
    simp only [byteOf, BitVec.toNat_ofNat]
    omega
  rw [wireGroups_eq, receive_sent _ _ _ _ _ _ length short, frameMalformed_sent hc hw h1 hs sendable hk,
    if_neg Bool.false_ne_true, contentionField_station hc hw hs, readBody_bytes sendable]

end Sys2Proof.Machine
end

