-- ==== Sys2Proof/Proofs/Applier.lean ====
section
/-! PROOFS. What an application writes, said once for every kind part (R36): O13 and O18. -/

namespace Sys2Proof.Machine

variable {r x : Replica} {n m : Nat} {p q : Pool}

/-! ### Entries of a roster (R32) -/

/-- R32: what a change of one entry does not write is as it was in every entry. -/
theorem rosterEntry_modify_field {α : Type} (g : Entry → α) {f : Entry → Entry} (roster : List Entry) (n m : Nat)
    (hg : ∀ e, g (f e) = g e := by exact fun _ => rfl) :
    g (rosterEntry (rosterModify roster n f) m) = g (rosterEntry roster m) := by
  by_cases same : m = n
  case neg => rw [rosterEntry_modify_ne roster f same]
  subst same
  by_cases known : 1 ≤ m ∧ m ≤ roster.length
  · rw [rosterEntry_modify_self roster m f known.1 known.2, hg]
  · cases m with
    | zero => rfl
    | succ k =>
      have past : roster.length ≤ k := by omega
      simp [rosterModify, rosterEntry, past]

/-- R82: a change of every entry that leaves a cold entry cold. -/
theorem rosterEntry_map {f : Entry → Entry} (cold : f Entry.cold = Entry.cold) (roster : List Entry) (m : Nat) :
    rosterEntry (roster.map f) m = f (rosterEntry roster m) := by
  cases m with
  | zero => exact cold.symm
  | succ k =>
    rw [rosterEntry, rosterEntry, List.getD_eq_getElem?_getD, List.getD_eq_getElem?_getD, List.getElem?_map]
    cases roster[k]? with
    | none => exact cold.symm
    | some e => rfl

/-! ### The common change (R33, R34) -/

theorem commonChange_entry_self (h1 : 1 ≤ n) (h2 : n ≤ r.roster.length) : (commonChange r n).entry n =
    { r.entry n with presence := .present, heard := (r.entry n).heard + 1 } :=
  rosterEntry_modify_self r.roster n _ h1 h2

theorem commonChange_entry_ne (h : m ≠ n) : (commonChange r n).entry m = r.entry m :=
  rosterEntry_modify_ne r.roster _ h

@[simp] theorem commonChange_roster_length (r : Replica) (n : Nat) :
    (commonChange r n).roster.length = r.roster.length := rosterModify_length _ _ _

/-! ### The kind part (R36) -/

/-- R36, part 1: what a kind part can write, with what the rules have tested of the pools (R99, R102, R103, R108). -/
inductive KindWrite (r : Replica) (n : Nat) : Replica → Prop where
  | nothing : KindWrite r n r
  | order (id : Word16) (image : Word32) (start deadline : Word16) (grace : Byte) (caps : PerPool Nat) :
      KindWrite r n (writeOrder r n id image start deadline grace caps)
  | night (a : NightAction) (t : NightState) : KindWrite r n (writeNight r a t)
  | grant (p : Pool) (u : Nat) (units : 1 ≤ u) (none_held : (r.entry n).holds.get p = 0) :
      KindWrite r n (writeGrant r n p u)
  | park (p : Pool) (u : Nat) (units : 1 ≤ u ∧ u ≤ 15) (free : (r.pools.get p).reserver = 0)
      (none_held : (r.entry n).holds.get p = 0) : KindWrite r n (writePark r n p u)
  | unpark (p : Pool) : KindWrite r n (setPool r p (clearReservation (r.pools.get p)))
  | release (us ul uf : Nat) :
      KindWrite r n (writeRelease n .feed uf (writeRelease n .load ul (writeRelease n .surge us r)))
  | reclaim (target : Nat) (known : 1 ≤ target ∧ target ≤ Config.stations) : KindWrite r n (writeReclaim r target)
  | mark (marks : MarkSet) (st : ShownState) (progress attempt : Nat) :
      KindWrite r n (writeMark r n marks st progress attempt)

/-- R99, R102: the units a CLAIM or PARK names are 1 to 15. -/
theorem poolUnits_range {pool units : Byte} {u : Nat} (h : poolUnits pool units = some (p, u)) : 1 ≤ u ∧ u ≤ 15 := by
  unfold poolUnits at h
  split at h
  case h_2 => cases h
  split at h
  · cases h; assumption
  · cases h

/-- R99: what the tests of a CLAIM have found where it is granted. -/
theorem judgeClaim_granted {pool units : Byte} {gen : Word16} {restore : Bool} {v : Verdict} {u : Nat}
    (h : judgeClaim r n pool units gen restore = (v, some (p, u))) : 1 ≤ u ∧ (r.entry n).holds.get p = 0 := by
  unfold judgeClaim at h
  split at h
  case h_1 => cases h
  case h_2 p' u' named =>
    dsimp only at h
    split_ifs at h with night held <;> cases h
    exact ⟨(poolUnits_range named).1, by simpa using held⟩

/-- R102: what the tests of a PARK have found where its reservation is placed. -/
theorem judgePark_placed {pool units : Byte} {v : Verdict} {u : Nat}
    (h : judgePark r n pool units = (v, some (p, u))) :
    (1 ≤ u ∧ u ≤ 15) ∧ (r.pools.get p).reserver = 0 ∧ (r.entry n).holds.get p = 0 := by
  unfold judgePark at h
  split at h
  case h_1 => cases h
  case h_2 p' u' named =>
    split_ifs at h with night reserved held <;> cases h
    exact ⟨poolUnits_range named, by simpa using reserved, by simpa using held⟩

/-- R36: every kind part makes one of these writes. -/
theorem kindPart_writes (r : Replica) (n : Nat) (b : Body) : KindWrite r n (kindPart r n b).1 := by
  cases b with
  | order id image start deadline grace cs cl cf =>
    rw [kindPart]; split
    · exact .order ..
    · exact .nothing
  | night id action f t =>
    rw [kindPart]; split
    · exact .night ..
    · exact .nothing
  | claim pool units gen flags =>
    rw [kindPart]; split
    case h_1 judged =>
      obtain ⟨some_units, none_held⟩ := judgeClaim_granted judged
      exact .grant _ _ some_units none_held
    case h_2 => exact .nothing
  | park pool units =>
    rw [kindPart]; split
    case h_1 judged =>
      obtain ⟨units, free, none_held⟩ := judgePark_placed judged
      exact .park _ _ units free none_held
    case h_2 => exact .nothing
  | unpark pool =>
    rw [kindPart]; split
    · exact .unpark _
    · exact .nothing
  | release us ul uf =>
    rw [kindPart]; split
    · exact .release ..
    · exact .nothing
  | reclaim target heard =>
    rw [kindPart]; split
    case isTrue made =>
      simp only [reclaimMade, Bool.and_eq_true, decide_eq_true_eq] at made
      obtain ⟨⟨⟨⟨least, most⟩, -⟩, -⟩, -⟩ := made
      exact .reclaim _ ⟨least, most⟩
    case isFalse => exact .nothing
  | mark night newest marks st progress attempt fill =>
    rw [kindPart]; split
    · exact .mark ..
    · exact .nothing
  | ask => exact .nothing
  | run asker index payload => exact .nothing
  | unknown kind bytes => exact .nothing

/-! ### What no kind part writes (R34) -/

/-- The forty entries, and the heard counts, which the common change alone writes. -/
structure HeardKept (r x : Replica) : Prop where
  length : x.roster.length = r.roster.length
  heard : ∀ m, (x.entry m).heard = (r.entry m).heard

theorem HeardKept.refl (r : Replica) : HeardKept r r := ⟨rfl, fun _ => rfl⟩

theorem HeardKept.trans {y : Replica} (h : HeardKept r x) (k : HeardKept x y) : HeardKept r y :=
  ⟨k.length.trans h.length, fun m => (k.heard m).trans (h.heard m)⟩

/-- A write of one entry that is no write of its heard count. -/
theorem HeardKept.modify {f : Entry → Entry} (hx : x.roster = rosterModify r.roster n f)
    (hf : ∀ e, (f e).heard = e.heard) : HeardKept r x where
  length := by rw [hx, rosterModify_length]
  heard m := by
    rw [Replica.entry, hx]
    exact rosterEntry_modify_field Entry.heard r.roster n m hf

theorem HeardKept.writeRelease (r : Replica) (n : Nat) (p : Pool) (u : Nat) : HeardKept r (writeRelease n p u r) := by
  unfold Machine.writeRelease
  split
  · exact .modify rfl fun _ => rfl
  · exact .refl r

theorem KindWrite.heardKept (w : KindWrite r n x) : HeardKept r x := by
  cases w with
  | nothing => exact .refl r
  | order id image start deadline grace caps =>
    exact ⟨List.length_map _, fun m => (congrArg Entry.heard
      (rosterEntry_map (f := fun e => { e with marks := 0, state := none }) rfl r.roster m) :)⟩
  | night a t => exact ⟨rfl, fun _ => rfl⟩
  | grant p u units none_held => exact .modify rfl fun _ => rfl
  | park p u units free none_held => exact ⟨rfl, fun _ => rfl⟩
  | unpark p => exact ⟨rfl, fun _ => rfl⟩
  | release us ul uf =>
    exact ((HeardKept.writeRelease r n .surge us).trans (.writeRelease _ n .load ul)).trans (.writeRelease _ n .feed uf)
  | reclaim target known => exact .modify rfl fun _ => rfl
  | mark marks st progress attempt => exact .modify rfl fun _ => rfl

/-- R32: an application keeps the number of entries. -/
theorem applyFrame_roster_length (r : Replica) (n : Nat) (b : Body) :
    (applyFrame r n b).1.roster.length = r.roster.length :=
  (commonChange_roster_length _ n).trans (kindPart_writes r n b).heardKept.length

/-- Settles O13: no kind part writes a heard count, and the common change comes after it. -/
theorem commonChangeOfEveryFrame : Obligations.CommonChangeOfEveryFrame := by
  intro r n forty h1 h2
  have of_kind (b : Body) := (kindPart_writes r n b).heardKept
  have sender (b : Body) := commonChange_entry_self (r := (kindPart r n b).1) h1
    (by rw [(of_kind b).length, forty]; exact h2)
  refine ⟨⟨rfl, rfl, commonChange_entry_self h1 (forty ▸ h2), fun m => commonChange_entry_ne⟩, fun b => ⟨?_, ?_, ?_⟩,
    rfl, fun _ _ _ => rfl, fun _ _ => rfl⟩
  · exact congrArg Entry.presence (sender b)
  · exact (congrArg Entry.heard (sender b)).trans (congrArg (· + 1) ((of_kind b).heard n))
  · exact fun m other => (congrArg Entry.heard (commonChange_entry_ne other)).trans ((of_kind b).heard m)

/-! ### MARK (R39, R40) -/

/-- 10.5: the codes 0 to 7 are the mark kinds' own. -/
theorem MarkKind.code_lt_iff (c : Byte) : c.toNat < 8 ↔ ∃ k : MarkKind, c = k.code := by
  constructor
  · intro below
    have place : c = BitVec.ofNat 8 c.toNat := by simp
    rw [place]
    generalize c.toNat = i at below
    match i, below with
    | 0, _ => exact ⟨.surgeEnd, rfl⟩
    | 1, _ => exact ⟨.booted, rfl⟩
    | 2, _ => exact ⟨.compare, rfl⟩
    | 3, _ => exact ⟨.transferred, rfl⟩
    | 4, _ => exact ⟨.imaged, rfl⟩
    | 5, _ => exact ⟨.failed, rfl⟩
    | 6, _ => exact ⟨.skipped, rfl⟩
    | 7, _ => exact ⟨.localUse, rfl⟩
  · rintro ⟨k, rfl⟩
    cases k <;> decide

/-- 10.3: a mark kind's code is its place in a marks set. -/
theorem MarkKind.getLsbD_code (marks : MarkSet) (k : MarkKind) : marks.getLsbD k.code.toNat = marks.has k := by
  cases k <;> rfl

/-- R39: the newest field is KEEP, or the code of a kind in the MARK's own set. -/
theorem newestOk_iff {newest : Byte} {marks : MarkSet} : newestOk newest marks = true ↔
    newest = 0xFF ∨ ∃ k : MarkKind, newest = k.code ∧ marks.has k = true := by
  simp only [newestOk, Bool.or_eq_true, Bool.and_eq_true, decide_eq_true_eq, beq_iff_eq, MarkKind.code_lt_iff,
    keepCode]
  refine or_congr_right ⟨?_, ?_⟩
  · rintro ⟨⟨k, rfl⟩, inSet⟩
    exact ⟨k, rfl, MarkKind.getLsbD_code marks k ▸ inSet⟩
  · rintro ⟨k, rfl, inSet⟩
    exact ⟨⟨k, rfl⟩, MarkKind.getLsbD_code marks k ▸ inSet⟩

/-- 10.5: the code of a state is 1 to 12. -/
theorem ShownState.code_range (st : ShownState) : 1 ≤ st.code.toNat ∧ st.code.toNat ≤ 12 := by
  cases st <;> decide

/-- 10.5: a code names a state only where it is that state's own. -/
theorem ShownState.ofCode_eq_some {c : Byte} {st : ShownState} (h : ShownState.ofCode c = some st) : st.code = c := by
  have step {k : Byte} {a : ShownState} {rest : Option ShownState} (next : rest = some st → st.code = c)
      (own : a.code = k) (h : (if c = k then some a else rest) = some st) : st.code = c := by
    split at h
    case isTrue named => exact Option.some.inj h ▸ own.trans named.symm
    case isFalse => exact next h
  revert h
  unfold ShownState.ofCode
  iterate 12 refine step ?_ rfl
  exact fun none_named => nomatch none_named

/-- R39: the MARKs that are not void. -/
theorem markMade_eq_some {night : NightRecord} {id : Word16} {newest marks state attempt : Byte} {progress : Word16}
    {st : ShownState} : markMade night id newest marks state progress attempt = some st ↔
      (id ≠ 0 ∧ id = night.id ∧ progress.toNat ≤ Config.maxProgress ∧ attempt.toNat ≤ 4
        ∧ newestOk newest marks = true) ∧ st.code = state := by
  unfold markMade
  split
  case isTrue tests =>
    rw [and_iff_right tests]
    exact ⟨ShownState.ofCode_eq_some, fun named => named ▸ ShownState.ofCode_code st⟩
  case isFalse tests =>
    constructor
    · intro none_made; cases none_made
    · rintro ⟨met, -⟩; exact absurd met tests

/-- Settles O18: the tests of R39 are those of markMade, and R40 writes the sender's entry before the common change. -/
theorem markWritesItsSendersEntry : Obligations.MarkWritesItsSendersEntry := by
  intro r n night newest marks state att fill progress t v forty h1 h2 applied
  refine ⟨fun st some_night current named progress_ok attempt_ok newest_ok => ?_, fun fails => ?_⟩
  · have made := markMade_eq_some.mpr
      ⟨⟨some_night, current, progress_ok, attempt_ok, newestOk_iff.mpr newest_ok⟩, named⟩
    rw [applyFrame, kindPart, made] at applied
    obtain ⟨rfl, rfl⟩ := Prod.mk.inj applied
    have written : (writeMark r n marks st progress.toNat att.toNat).entry n = _ :=
      rosterEntry_modify_self r.roster n _ h1 (forty ▸ h2)
    have length : n ≤ (writeMark r n marks st progress.toNat att.toNat).roster.length := by
      rw [writeMark, rosterModify_length, forty]; exact h2
    refine ⟨rfl, rfl, rfl, ?_, fun m other => ?_⟩
    · rw [commonChange_entry_self h1 length, written]
      rfl
    · rw [commonChange_entry_ne other]
      exact rosterEntry_modify_ne r.roster _ other
  · have void : markMade r.night night newest marks state progress att = none := by
      rw [Option.eq_none_iff_forall_ne_some]
      intro st made
      obtain ⟨⟨some_night, current, progress_ok, attempt_ok, newest_ok⟩, named⟩ := markMade_eq_some.mp made
      have range := named ▸ ShownState.code_range st
      have limit : progress.toNat ≤ 1000 := progress_ok
      rcases fails with h | h | h | h | h | h | ⟨keep, unset⟩
      · exact some_night h
      · exact h current
      · omega
      · omega
      · omega
      · omega
      · obtain rfl | ⟨k, rfl, inSet⟩ := newestOk_iff.mp newest_ok
        · exact keep rfl
        · rw [unset k rfl] at inSet
          cases inSet
    rw [applyFrame, kindPart, void] at applied
    obtain ⟨rfl, rfl⟩ := Prod.mk.inj applied
    exact ⟨rfl, rfl⟩

end Sys2Proof.Machine
end

