-- ==== Sys2Proof/Proofs/PoolLaws.lean ====
section
/-! PROOFS. What an application does to one pool (R31): its record and the holds in it change together, in one of six
ways. O22 and O23 are read from the six. -/

namespace Sys2Proof.Machine

variable {r x : Replica} {n m : Nat} {p q : Pool}

/-! ### The holds of a pool by station number (R30) -/

/-- R32: the hold of every station number in a pool. -/
def Replica.holdsIn (r : Replica) (p : Pool) : Nat → Nat := fun m => (r.entry m).holds.get p

/-- R30: the law of in-use as a sum over the station numbers. -/
theorem holdSum_eq_sum (forty : r.roster.length = Config.stations) (p : Pool) :
    holdSum r.roster p = ∑ k ∈ Finset.range Config.stations, r.holdsIn p (k + 1) := by
  have listed : r.roster.map (fun e => e.holds.get p) =
      (List.range Config.stations).map fun k => r.holdsIn p (k + 1) := by
    refine List.ext_getElem (by simp [forty]) fun k h _ => ?_
    have known : k < r.roster.length := by simpa using h
    simp [Replica.holdsIn, Replica.entry, rosterEntry, known]
  rw [holdSum, listed, ← List.sum_toFinset _ List.nodup_range, List.toFinset_range]

/-- R30: where one station's hold changes, the sum changes by as much. -/
theorem sum_update (h : Nat → Nat) (units : Nat) (h1 : 1 ≤ m) (h2 : m ≤ Config.stations) :
    (∑ k ∈ Finset.range Config.stations, Function.update h m units (k + 1)) + h m =
      (∑ k ∈ Finset.range Config.stations, h (k + 1)) + units := by
  obtain ⟨j, rfl⟩ := Nat.exists_eq_add_of_le' h1
  have known : j ∈ Finset.range Config.stations := Finset.mem_range.mpr h2
  have others : ∀ k ∈ (Finset.range Config.stations).erase j, Function.update h (j + 1) units (k + 1) = h (k + 1) :=
    fun k hk => Function.update_of_ne (fun e => Finset.ne_of_mem_erase hk (Nat.succ.inj e)) _ _
  rw [← Finset.sum_erase_add _ _ known, ← Finset.sum_erase_add _ _ known, Finset.sum_congr rfl others,
    Function.update_self]
  omega

/-! ### The writes of a hold and of a pool record -/

theorem setHold_holdsIn_self (h1 : 1 ≤ n) (h2 : n ≤ r.roster.length) (p : Pool) (units : Nat) :
    (setHold r n p units).holdsIn p = Function.update (r.holdsIn p) n units := by
  funext m
  by_cases same : m = n
  · subst same
    rw [Function.update_self]
    have entry : (setHold r m p units).entry m = { r.entry m with holds := (r.entry m).holds.set p units } :=
      rosterEntry_modify_self r.roster m _ h1 h2
    rw [Replica.holdsIn, entry, PerPool.get_set_self]
  · rw [Function.update_of_ne same]
    exact congrArg (fun e => e.holds.get p) (rosterEntry_modify_ne r.roster _ same)

theorem setHold_holdsIn_ne (h : q ≠ p) (r : Replica) (n units : Nat) :
    (setHold r n p units).holdsIn q = r.holdsIn q :=
  funext fun m => rosterEntry_modify_field (fun e => e.holds.get q) r.roster n m
    fun e => PerPool.get_set_ne e.holds units h

/-! ### The six changes of a pool (R31) -/

/-- R31: what an application of a frame of station n makes of a pool record c and the holds h in the pool: nothing but a
new capacity, its reservation cleared, units granted, a reservation placed, units released, or a station reclaimed. -/
inductive PoolChange (n : Nat) (c : PoolRecord) (h : Nat → Nat) : PoolRecord → (Nat → Nat) → Prop where
  | untouched (capacity : Nat) : PoolChange n c h { c with capacity := capacity } h
  | cleared (capacity : Nat) (reserved : c.reserver ≠ 0) : PoolChange n c h
      { c with capacity := capacity, reserver := 0, reserved := 0, generation := c.generation + 1 } h
  | granted (u : Nat) (units : 1 ≤ u) (none_held : h n = 0) :
      PoolChange n c h (grantPool c n u) (Function.update h n u)
  | parked (u : Nat) (units : 1 ≤ u ∧ u ≤ 15) (free : c.reserver = 0) (none_held : h n = 0) : PoolChange n c h
      { c with reserver := n, reserved := u, generation := c.generation + 1 } h
  | released (held : h n ≠ 0) : PoolChange n c h
      { c with inUse := giveBack c.inUse (h n), generation := c.generation + 1 } (Function.update h n 0)
  | reclaimed (m : Nat) (known : 1 ≤ m ∧ m ≤ Config.stations) (stripped : h m ≠ 0 ∨ c.reserver = m) :
      PoolChange n c h (reclaimPool m (h m) c) (Function.update h m 0)

namespace PoolChange

variable {c d : PoolRecord} {h k : Nat → Nat}

/-- R82: a night change, which may bring a capacity, clears the reservation where there is one. -/
theorem clearReservation (capacity : Nat) :
    PoolChange n c h (clearReservation { c with capacity := capacity }) h := by
  unfold Machine.clearReservation
  split
  case isTrue => exact .untouched capacity
  case isFalse reserved => exact .cleared capacity reserved

/-- R31: a change of a hold or of the reserver counts. -/
theorem generation_of_changed (w : PoolChange n c h d k) (changed : (∃ m, k m ≠ h m) ∨ d.reserver ≠ c.reserver) :
    d.generation = c.generation + 1 := by
  cases w with
  | untouched capacity => rcases changed with ⟨m, other⟩ | other <;> exact absurd rfl other
  | cleared capacity reserved => rfl
  | granted u units none_held => rfl
  | parked u units free none_held => rfl
  | released held => rfl
  | reclaimed m known stripped => rw [reclaimPool, if_pos stripped]

/-- R31: nothing else counts, and nothing else writes in-use. -/
theorem kept_of_unchanged (w : PoolChange n c h d k) (h1 : 1 ≤ n) (holds : ∀ m, k m = h m)
    (reserver : d.reserver = c.reserver) : d.generation = c.generation ∧ d.inUse = c.inUse := by
  cases w with
  | untouched capacity => exact ⟨rfl, rfl⟩
  | cleared capacity reserved => exact absurd reserver.symm reserved
  | granted u units none_held =>
    have granted := holds n
    rw [Function.update_self, none_held] at granted
    omega
  | parked u units free none_held =>
    have placed : n = c.reserver := reserver
    omega
  | released held =>
    have released := holds n
    rw [Function.update_self] at released
    exact absurd released.symm held
  | reclaimed m known stripped =>
    have none_held := holds m
    rw [Function.update_self] at none_held
    have reserves : c.reserver = m := stripped.resolve_left fun held => held none_held.symm
    rw [reclaimPool, if_pos stripped, if_pos reserves] at reserver
    have no_reserver : 0 = c.reserver := reserver
    omega

/-- R30: in-use stays the sum of the holds. -/
theorem inUse_eq_sum (w : PoolChange n c h d k) (h1 : 1 ≤ n) (h2 : n ≤ Config.stations)
    (law : c.inUse = ∑ j ∈ Finset.range Config.stations, h (j + 1)) :
    d.inUse = ∑ j ∈ Finset.range Config.stations, k (j + 1) := by
  have given_back {m : Nat} (h1 : 1 ≤ m) (h2 : m ≤ Config.stations) : giveBack c.inUse (h m) =
      ∑ j ∈ Finset.range Config.stations, Function.update h m 0 (j + 1) := by
    have left := sum_update h 0 h1 h2
    rw [giveBack, if_pos (by omega)]
    omega
  cases w with
  | untouched capacity => exact law
  | cleared capacity reserved => exact law
  | granted u units none_held =>
    have risen := sum_update h u h1 h2
    have written : (grantPool c n u).inUse = c.inUse + u := rfl
    omega
  | parked u units free none_held => exact law
  | released held => exact given_back h1 h2
  | reclaimed m known stripped =>
    rw [reclaimPool, if_pos stripped]
    exact given_back known.1 known.2

end PoolChange

/-- R29, R102: a pool's reservation is lawful beside the holds in the pool. -/
def LawfulReservation (c : PoolRecord) (h : Nat → Nat) : Prop :=
  (c.reserver = 0 ∧ c.reserved = 0) ∨ (1 ≤ c.reserver ∧ c.reserver ≤ Config.stations ∧ 1 ≤ c.reserved
    ∧ c.reserved ≤ 15 ∧ h c.reserver = 0)

theorem reservationLaw_iff (r : Replica) :
    r.reservationLaw ↔ ∀ p, LawfulReservation (r.pools.get p) (r.holdsIn p) := Iff.rfl

namespace LawfulReservation

variable {c d : PoolRecord} {h k : Nat → Nat}

/-- R102: a reservation stays lawful while its reserver's hold stays 0. -/
theorem of_hold (law : LawfulReservation c h) (reserver : d.reserver = c.reserver) (reserved : d.reserved = c.reserved)
    (hold : h c.reserver = 0 → k c.reserver = 0) : LawfulReservation d k := by
  rcases law with ⟨none_reserves, none_reserved⟩ | ⟨least, most, some_reserved, limit, none_held⟩
  · exact .inl ⟨reserver.trans none_reserves, reserved.trans none_reserved⟩
  · exact .inr ⟨reserver ▸ least, reserver ▸ most, reserved ▸ some_reserved,
      reserved ▸ limit, reserver ▸ hold none_held⟩

theorem of_cleared (reserver : d.reserver = 0) (reserved : d.reserved = 0) : LawfulReservation d k :=
  .inl ⟨reserver, reserved⟩

/-- R102: a reservation of another station stays lawful where one station's hold is written. -/
theorem of_update (law : LawfulReservation c h) (reserver : d.reserver = c.reserver)
    (reserved : d.reserved = c.reserved) {m units : Nat} (other : c.reserver ≠ m ∨ units = 0) :
    LawfulReservation d (Function.update h m units) :=
  law.of_hold reserver reserved fun none_held => by
    by_cases same : c.reserver = m
    · rw [same, Function.update_self]
      exact other.resolve_left fun ne => ne same
    · rwa [Function.update_of_ne same]

/-- R99, R102, R108: every change of a pool keeps its reservation lawful. -/
theorem change (law : LawfulReservation c h) (w : PoolChange n c h d k) (h1 : 1 ≤ n) (h2 : n ≤ Config.stations) :
    LawfulReservation d k := by
  cases w with
  | untouched capacity => exact law
  | cleared capacity reserved => exact .of_cleared rfl rfl
  | granted u units none_held =>
    by_cases own : c.reserver = n
    · exact .of_cleared (if_pos own) (if_pos own)
    · exact law.of_update (if_neg own) (if_neg own) (.inl own)
  | parked u units free none_held => exact .inr ⟨h1, h2, units.1, units.2, none_held⟩
  | released held => exact law.of_update rfl rfl (.inr rfl)
  | reclaimed m known stripped =>
    rw [reclaimPool, if_pos stripped]
    by_cases target : c.reserver = m
    · exact .of_cleared (if_pos target) (if_pos target)
    · exact law.of_update (if_neg target) (if_neg target) (.inr rfl)

end LawfulReservation

/-! ### Every kind part changes a pool in one of the six ways -/

/-- R31: what becomes of a pool between two replicas. -/
def Replica.PoolChanges (r x : Replica) (n : Nat) (p : Pool) : Prop :=
  PoolChange n (r.pools.get p) (r.holdsIn p) (x.pools.get p) (x.holdsIn p)

namespace Replica.PoolChanges

variable {d : PoolRecord} {k : Nat → Nat}

theorem of_change (w : PoolChange n (r.pools.get p) (r.holdsIn p) d k) (record : x.pools.get p = d)
    (holds : x.holdsIn p = k) : r.PoolChanges x n p := by
  unfold Replica.PoolChanges
  rwa [record, holds]

/-- A write that leaves the pool's record and holds as they were. -/
theorem of_eq (record : x.pools.get p = r.pools.get p) (holds : x.holdsIn p = r.holdsIn p) : r.PoolChanges x n p :=
  of_change (.untouched _) record holds

/-- A write of one pool's record. -/
theorem setPool (w : PoolChange n (r.pools.get p) (r.holdsIn p) d (r.holdsIn p)) (q : Pool) :
    r.PoolChanges (setPool r p d) n q := by
  by_cases same : q = p
  · subst same
    exact of_change w (PerPool.get_set_self _ _ _) rfl
  · exact of_eq (PerPool.get_set_ne _ _ same) rfl

/-- A write of one pool's record and of one station's hold in it. -/
theorem setHold {units : Nat} (w : PoolChange n (r.pools.get p) (r.holdsIn p) d (Function.update (r.holdsIn p) n units))
    (h1 : 1 ≤ n) (h2 : n ≤ r.roster.length) (q : Pool) :
    r.PoolChanges (setHold (Machine.setPool r p d) n p units) n q := by
  by_cases same : q = p
  · subst same
    exact of_change w (PerPool.get_set_self _ _ _) (setHold_holdsIn_self (r := Machine.setPool r q d) h1 h2 q units)
  · exact of_eq (PerPool.get_set_ne _ _ same) (setHold_holdsIn_ne same (Machine.setPool r p d) n units)

end Replica.PoolChanges

/-- R105: a part of a RELEASE leaves the other pools as they were. -/
theorem writeRelease_other (h : q ≠ p) (n units : Nat) (r : Replica) :
    (writeRelease n p units r).pools.get q = r.pools.get q
      ∧ (writeRelease n p units r).holdsIn q = r.holdsIn q := by
  unfold writeRelease
  split
  · exact ⟨PerPool.get_set_ne _ _ h, setHold_holdsIn_ne h (setPool r p _) n 0⟩
  · exact ⟨rfl, rfl⟩

/-- R105: a part of a RELEASE in its own pool. -/
theorem writeRelease_self (h1 : 1 ≤ n) (h2 : n ≤ r.roster.length) (p : Pool) (units : Nat) :
    r.PoolChanges (writeRelease n p units r) n p := by
  unfold writeRelease
  split
  case isTrue applies =>
    simp only [releasePart, Bool.and_eq_true, bne_iff_ne, beq_iff_eq] at applies
    obtain ⟨some_units, held⟩ := applies
    have exactly : r.holdsIn p n = units := held
    subst exactly
    exact .setHold (.released some_units) h1 h2 p
  case isFalse => exact .of_eq rfl rfl

/-- R105: the three parts of a RELEASE, each in its own pool. -/
theorem writeRelease_all (h1 : 1 ≤ n) (h2 : n ≤ r.roster.length) (us ul uf : Nat) : ∀ p,
    r.PoolChanges (writeRelease n .feed uf (writeRelease n .load ul (writeRelease n .surge us r))) n p := by
  have length_surge := (HeardKept.writeRelease r n .surge us).length
  have length_load := (HeardKept.writeRelease (writeRelease n .surge us r) n .load ul).length
  refine Pool.forall_of ?_ ?_ ?_
  · obtain ⟨record, holds⟩ :=
      writeRelease_other (q := .surge) (p := .load) (by decide) n ul (writeRelease n .surge us r)
    obtain ⟨record', holds'⟩ := writeRelease_other (q := .surge) (p := .feed) (by decide) n uf
      (writeRelease n .load ul (writeRelease n .surge us r))
    exact .of_change (writeRelease_self h1 h2 .surge us) (record'.trans record) (holds'.trans holds)
  · obtain ⟨record, holds⟩ := writeRelease_other (q := .load) (p := .surge) (by decide) n us r
    obtain ⟨record', holds'⟩ := writeRelease_other (q := .load) (p := .feed) (by decide) n uf
      (writeRelease n .load ul (writeRelease n .surge us r))
    have part := writeRelease_self (r := writeRelease n .surge us r) h1 (length_surge ▸ h2) .load ul
    unfold Replica.PoolChanges at part
    rw [record, holds] at part
    exact .of_change part record' holds'
  · obtain ⟨record, holds⟩ := writeRelease_other (q := .feed) (p := .surge) (by decide) n us r
    obtain ⟨record', holds'⟩ :=
      writeRelease_other (q := .feed) (p := .load) (by decide) n ul (writeRelease n .surge us r)
    have part := writeRelease_self (r := writeRelease n .load ul (writeRelease n .surge us r)) h1
      (by rw [length_load, length_surge]; exact h2) .feed uf
    unfold Replica.PoolChanges at part
    rwa [record', record, holds', holds] at part

/-- R108: a RECLAIM changes each pool that its target holds units of or reserves. -/
theorem writeReclaim_changes (known : 1 ≤ m ∧ m ≤ Config.stations) (forty : r.roster.length = Config.stations)
    (n : Nat) (p : Pool) : r.PoolChanges (writeReclaim r m) n p := by
  have record : (writeReclaim r m).pools.get p = reclaimPool m (r.holdsIn p m) (r.pools.get p) :=
    PerPool.get_ofFun _ p
  have holds : (writeReclaim r m).holdsIn p = Function.update (r.holdsIn p) m 0 := by
    funext j
    by_cases target : j = m
    · subst target
      have entry : (writeReclaim r j).entry j = { r.entry j with holds := PerPool.all 0, presence := .silent } :=
        rosterEntry_modify_self r.roster j _ known.1 (forty ▸ known.2)
      rw [Function.update_self, Replica.holdsIn, entry, PerPool.get_all]
    · rw [Function.update_of_ne target]
      exact congrArg (fun e => e.holds.get p) (rosterEntry_modify_ne r.roster _ target)
  by_cases stripped : r.holdsIn p m ≠ 0 ∨ (r.pools.get p).reserver = m
  · exact .of_change (.reclaimed m known stripped) record holds
  · have none_held : r.holdsIn p m = 0 := by
      by_contra held
      exact stripped (.inl held)
    refine .of_eq (record.trans (if_neg stripped)) (holds.trans ?_)
    exact Function.update_eq_self_iff.mpr none_held.symm

/-- R31: every kind part makes one of the six changes to every pool. -/
theorem KindWrite.poolChanges (w : KindWrite r n x) (forty : r.roster.length = Config.stations) (h1 : 1 ≤ n)
    (h2 : n ≤ Config.stations) (p : Pool) : r.PoolChanges x n p := by
  have in_roster : n ≤ r.roster.length := forty ▸ h2
  cases w with
  | nothing => exact .of_eq rfl rfl
  | order id image start deadline grace caps =>
    refine .of_change (.clearReservation (caps.get p)) (PerPool.get_ofFun _ p) (funext fun m => ?_)
    exact (congrArg (fun e => e.holds.get p)
      (rosterEntry_map (f := fun e => { e with marks := 0, state := none }) rfl r.roster m) :)
  | night a t =>
    have pools : (writeNight r a t).pools = if nightClears a t then r.pools.map clearReservation else r.pools := rfl
    by_cases clears : nightClears a t = true
    · rw [if_pos clears] at pools
      exact .of_change (.clearReservation (r.pools.get p).capacity) (by rw [pools, PerPool.get_map]) rfl
    · rw [if_neg clears] at pools
      exact .of_eq (by rw [pools]) rfl
  | grant p u units none_held => exact .setHold (.granted u units none_held) h1 in_roster _
  | park p u units free none_held => exact .setPool (.parked u units free none_held) _
  | unpark p => exact .setPool (.clearReservation _) _
  | release us ul uf => exact writeRelease_all h1 in_roster us ul uf p
  | reclaim target known => exact writeReclaim_changes known forty n p
  | mark marks st progress attempt =>
    exact .of_eq rfl (funext fun m => rosterEntry_modify_field (fun e => e.holds.get p) r.roster n m)

/-! ### Applications (R30, R31, R102) -/

/-- R33, R34: the common change writes no hold. -/
theorem commonChange_holdsIn (r : Replica) (n : Nat) (p : Pool) : (commonChange r n).holdsIn p = r.holdsIn p :=
  funext fun m => rosterEntry_modify_field (fun e => e.holds.get p) r.roster n m

/-- R31, R36: every application makes one of the six changes to every pool. -/
theorem applyFrame_poolChanges (forty : r.roster.length = Config.stations) (h1 : 1 ≤ n) (h2 : n ≤ Config.stations)
    (b : Body) (p : Pool) : r.PoolChanges (applyFrame r n b).1 n p :=
  .of_change ((kindPart_writes r n b).poolChanges forty h1 h2 p) rfl (commonChange_holdsIn _ n p)

/-- Settles O22: a change of a hold or of the reserver is one of the five that raise the generation. -/
theorem generationCountsPoolChanges : Obligations.GenerationCountsPoolChanges := by
  intro r n b p law _ h1 h2
  have change := applyFrame_poolChanges law.1 h1 h2 b p
  exact ⟨change.generation_of_changed, change.kept_of_unchanged h1⟩

/-- Settles O23: each of the six changes of a pool keeps in-use the sum of the holds and the reservation lawful. -/
theorem applierKeepsPoolLaws : Obligations.ApplierKeepsPoolLaws := by
  intro r n b h1 h2 ⟨forty, inUse⟩ reservations
  rw [reservationLaw_iff] at reservations ⊢
  have change (p : Pool) := applyFrame_poolChanges forty h1 h2 b p
  have length := (applyFrame_roster_length r n b).trans forty
  refine ⟨⟨length, fun p => ?_⟩, fun p => ?_⟩
  · rw [holdSum_eq_sum length]
    exact (change p).inUse_eq_sum h1 h2 ((inUse p).trans (holdSum_eq_sum forty p))
  · exact (reservations p).change (change p) h1 h2

end Sys2Proof.Machine
end

