-- ==== Sys2Proof/Proofs/MemberKept.lean ====
section
/-! PROOFS. What writes nothing of the Membership Unit: one lemma per operation of the other blocks, tagged for simp. -/

namespace Sys2Proof.Machine

/-- A choice between two states is a choice between their Membership Units. -/
@[simp] theorem ite_member (c : Prop) [Decidable c] (s t : State) :
    (if c then s else t).member = if c then s.member else t.member := apply_ite State.member c s t

/-! ### The queue -/

@[simp] theorem setSlot_member (s : State) (src : Source) (x : Slot) : (s.setSlot src x).member = s.member := rfl

@[simp] theorem place_member (src : Source) (b : Body) (s : State) : (place src b s).member = s.member := by
  unfold place
  split <;> rfl

@[simp] theorem withdraw_member (src : Source) (s : State) : (withdraw src s).member = s.member := by
  unfold withdraw
  split <;> rfl

/-! ### EVENTS and the row statistics -/

@[simp] theorem raise_member (e : Event) (s : State) : (raise e s).member = s.member := rfl

@[simp] theorem countDelivered_member (s : State) : (countDelivered s).member = s.member := rfl

@[simp] theorem countVetoed_member (s : State) : (countVetoed s).member = s.member := rfl

@[simp] theorem countArbLoss_member (s : State) : (countArbLoss s).member = s.member := rfl

@[simp] theorem countRxError_member (s : State) : (countRxError s).member = s.member := rfl

/-! ### Marks and the gate -/

@[simp] theorem putMark_member (h : HeldMark) (s : State) : (putMark h s).member = s.member := by
  unfold putMark
  split <;> rfl

@[simp] theorem keepMark_member (s : State) : (keepMark s).member = s.member := by simp [keepMark]

@[simp] theorem stateMark_member (s : State) : (stateMark s).member = s.member := by simp [stateMark]

@[simp] theorem milestone_member (k : MarkKind) (s : State) : (milestone k s).member = s.member := by simp [milestone]

@[simp] theorem comparator_member (progress : Nat) (laterKind : Option MarkKind) (s : State) :
    (comparator progress laterKind s).member = s.member := by
  unfold comparator
  split
  · cases laterKind <;> simp
  · rfl

@[simp] theorem progressMark_member (s : State) : (progressMark s).member = s.member := by
  unfold progressMark
  split <;> rfl

@[simp] theorem presentHeldMark_member (s : State) : (presentHeldMark s).member = s.member := by
  unfold presentHeldMark
  split <;> simp

@[simp] theorem markDelivered_member (b : Body) (s : State) : (markDelivered b s).member = s.member := by
  simp [markDelivered]

@[simp] theorem markDropped_member (s : State) : (markDropped s).member = s.member := by simp [markDropped]

@[simp] theorem emittedFor_member (night : Word16) (s : State) : (emittedFor night s).member = s.member := by
  simp [emittedFor]

@[simp] theorem gateReady_member (night : Word16) (s : State) : (gateReady night s).member = s.member := by
  simp [gateReady]

@[simp] theorem startPatience_member (s : State) : (startPatience s).member = s.member := by simp [startPatience]

@[simp] theorem stopPatience_member (s : State) : (stopPatience s).member = s.member := rfl

@[simp] theorem patienceAtSync_member (s : State) : (patienceAtSync s).member = s.member := by simp [patienceAtSync]

/-! ### The Claim Engine -/

@[simp] theorem keepSync_member (s : State) : (keepSync s).member = s.member := by simp [keepSync]

@[simp] theorem keepRestart_member (s : State) : (keepRestart s).member = s.member := by simp [keepRestart]

@[simp] theorem recordHold_member (p : Pool) (units : Nat) (s : State) :
    (recordHold p units s).member = s.member := by simp [recordHold]

@[simp] theorem recordReservation_member (r : Option Pool) (s : State) :
    (recordReservation r s).member = s.member := by simp [recordReservation]

@[simp] theorem setRequestState_member (st : RequestState) (s : State) :
    (setRequestState st s).member = s.member := rfl

@[simp] theorem stopClaimAge_member (s : State) : (stopClaimAge s).member = s.member := rfl

@[simp] theorem placeClaim_member (r : Request) (s : State) : (placeClaim r s).member = s.member := by
  unfold placeClaim
  split <;> rfl

@[simp] theorem placePark_member (r : Request) (s : State) : (placePark r s).member = s.member := by
  unfold placePark
  split <;> rfl

@[simp] theorem setGranted_member (s : State) : (setGranted s).member = s.member := rfl

@[simp] theorem grantRequest_member (p : Pool) (units : Nat) (s : State) :
    (grantRequest p units s).member = s.member := by simp [grantRequest]

@[simp] theorem reread_member (s : State) : (reread s).1.member = s.member := by
  unfold reread
  split
  · rfl
  · split
    · rfl
    · split <;> simp

@[simp] theorem raisePatience_member (s : State) : (raisePatience s).member = s.member := by simp [raisePatience]

@[simp] theorem tryUnpark_member (s : State) : (tryUnpark s).member = s.member := by
  unfold tryUnpark
  split
  · rfl
  · dsimp only
    split <;> simp

@[simp] theorem wantUnpark_member (p : Pool) (s : State) : (wantUnpark p s).member = s.member := rfl

@[simp] theorem dropRequestFrame_member (s : State) : (dropRequestFrame s).member = s.member := by
  unfold dropRequestFrame
  split
  · split <;> simp
  · rfl

@[simp] theorem cancelRequest_member (s : State) : (cancelRequest s).member = s.member := by
  unfold cancelRequest
  split <;> simp

@[simp] theorem cancelAll_member (s : State) : (cancelAll s).member = s.member := by simp [cancelAll]

@[simp] theorem cancelFor_member (p : Pool) (s : State) : (cancelFor p s).member = s.member := by
  unfold cancelFor
  cases s.claim.deferred with
  | none => dsimp only; split <;> simp
  | some d => dsimp only; split <;> simp

@[simp] theorem makeRequest_member (p : Pool) (units : Nat) (s : State) :
    (makeRequest p units s).1.member = s.member := by
  unfold makeRequest
  split <;> simp

@[simp] theorem startRestore_member (s : State) : (startRestore s).member = s.member := by simp [startRestore]

@[simp] theorem placeRelease_member (u : PerPool Nat) (s : State) : (placeRelease u s).member = s.member := by
  unfold placeRelease
  split
  · rfl
  · split <;> rfl

@[simp] theorem owePools_member (x : PerPool Bool) (s : State) : (owePools x s).member = s.member := rfl

@[simp] theorem releaseAsk_member (x : PerPool Bool) (s : State) : (releaseAsk x s).member = s.member := by
  simp [releaseAsk]

@[simp] theorem judgeWatch_member (s : State) : (judgeWatch s).member = s.member := by
  unfold judgeWatch
  split
  · rfl
  · split <;> simp

@[simp] theorem suspendEngine_member (s : State) : (suspendEngine s).member = s.member := rfl

/-! ### The sequencer -/

@[simp] theorem toState_member (st : SeqState) (s : State) : (toState st s).member = s.member := rfl

@[simp] theorem enterState_member (st : SeqState) (s : State) : (enterState st s).member = s.member := by
  simp [enterState]

@[simp] theorem enterWith_member (k : MarkKind) (st : SeqState) (s : State) :
    (enterWith k st s).member = s.member := by simp [enterWith]

@[simp] theorem setOutcome_member (o : NightOutcome) (skip : Option SkipReason) (s : State) :
    (setOutcome o skip s).member = s.member := by simp [setOutcome]

@[simp] theorem setLate_member (s : State) : (setLate s).member = s.member := rfl

@[simp] theorem setFinish_member (f : FinishOutcome) (s : State) : (setFinish f s).member = s.member := rfl

@[simp] theorem wakeStart_member (s : State) : (wakeStart s).member = s.member := by simp [wakeStart]

@[simp] theorem wakeTest_member (s : State) : (wakeTest s).member = s.member := by simp [wakeTest]

@[simp] theorem requestSurge_member (s : State) : (requestSurge s).member = s.member := by simp [requestSurge]

@[simp] theorem loadGranted_member (s : State) : (loadGranted s).member = s.member := by simp [loadGranted]

@[simp] theorem requestLoad_member (s : State) : (requestLoad s).member = s.member := by simp [requestLoad]

@[simp] theorem feedGranted_member (s : State) : (feedGranted s).member = s.member := by simp [feedGranted]

@[simp] theorem requestFeed_member (s : State) : (requestFeed s).member = s.member := by simp [requestFeed]

@[simp] theorem toldGranted_member (p : Pool) (s : State) : (toldGranted p s).member = s.member := by
  unfold toldGranted
  split <;> simp

@[simp] theorem remakeDeferred_member (s : State) : (remakeDeferred s).member = s.member := by
  unfold remakeDeferred
  split <;> simp

@[simp] theorem tellGrant_member (s : State) : (tellGrant s).member = s.member := by
  unfold tellGrant
  split <;> simp

@[simp] theorem rereadTold_member (s : State) : (rereadTold s).member = s.member := by simp [rereadTold]

@[simp] theorem claimingStart_member (s : State) : (claimingStart s).member = s.member := by simp [claimingStart]

@[simp] theorem enterClaiming_member (s : State) : (enterClaiming s).member = s.member := by simp [enterClaiming]

@[simp] theorem noteOff_member (s : State) : (noteOff s).member = s.member := by simp [noteOff]

@[simp] theorem evaluateGate_member (s : State) : (evaluateGate s).member = s.member := by simp [evaluateGate]

@[simp] theorem readGate_member (s : State) : (readGate s).member = s.member := by simp [readGate]

@[simp] theorem enterGated_member (s : State) : (enterGated s).member = s.member := by simp [enterGated]

@[simp] theorem takeUp_member (s : State) : (takeUp s).member = s.member := by simp [takeUp]

@[simp] theorem takeUpSkipped_member (reason : SkipReason) (s : State) :
    (takeUpSkipped reason s).member = s.member := by simp [takeUpSkipped]

@[simp] theorem takeUpLocal_member (s : State) : (takeUpLocal s).member = s.member := by simp [takeUpLocal]

@[simp] theorem takeUpRunning_member (s : State) : (takeUpRunning s).member = s.member := by simp [takeUpRunning]

@[simp] theorem takeUpClosed_member (reason : SkipReason) (s : State) :
    (takeUpClosed reason s).member = s.member := by simp [takeUpClosed]

@[simp] theorem lookNewer_member (s : State) : (lookNewer s).member = s.member := by simp [lookNewer]

@[simp] theorem finishDone_member (s : State) : (finishDone s).member = s.member := by simp [finishDone]

@[simp] theorem finishingActs_member (s : State) : (finishingActs s).member = s.member := by simp [finishingActs]

@[simp] theorem enterFinishing_member (f : FinishOutcome) (s : State) : (enterFinishing f s).member = s.member := by
  simp [enterFinishing]

@[simp] theorem localEntry_member (s : State) : (localEntry s).member = s.member := by simp [localEntry]

@[simp] theorem skipNight_member (reason : SkipReason) (after : NightOutcome) (s : State) :
    (skipNight reason after s).member = s.member := by simp [skipNight]

@[simp] theorem longPress_member (s : State) : (longPress s).member = s.member := by simp [longPress]

@[simp] theorem failAttempt_member (c : Cause) (s : State) : (failAttempt c s).member = s.member := by
  simp [failAttempt]

@[simp] theorem bootingActs_member (s : State) : (bootingActs s).member = s.member := by
  unfold bootingActs
  dsimp only
  split <;> simp

@[simp] theorem settleEnds_member (s : State) : (settleEnds s).member = s.member := by simp [settleEnds]

@[simp] theorem cooldownEnds_member (s : State) : (cooldownEnds s).member = s.member := by
  unfold cooldownEnds
  split
  · simp
  · split <;> simp

@[simp] theorem gatedStanding_member (s : State) : (gatedStanding s).member = s.member := by
  unfold gatedStanding
  split <;> simp

@[simp] theorem claimingStanding_member (s : State) : (claimingStanding s).member = s.member := by
  unfold claimingStanding
  split <;> simp

@[simp] theorem bootingStanding_member (s : State) : (bootingStanding s).member = s.member := by
  unfold bootingStanding
  split <;> simp

@[simp] theorem imagingStanding_member (s : State) : (imagingStanding s).member = s.member := by
  unfold imagingStanding
  split <;> rfl

@[simp] theorem lateStanding_member (s : State) : (lateStanding s).member = s.member := by
  unfold lateStanding
  split <;> rfl

@[simp] theorem standingReaction_member (s : State) : (standingReaction s).member = s.member := by
  unfold standingReaction
  split <;> simp

@[simp] theorem workStanding_member (s : State) : (workStanding s).member = s.member := by simp [workStanding]

@[simp] theorem noteNewer_member (s : State) : (noteNewer s).member = s.member := by simp [noteNewer]

@[simp] theorem busyNotice_member (s : State) : (busyNotice s).member = s.member := by simp [busyNotice]

@[simp] theorem nightNotice_member (aborted : Bool) (s : State) : (nightNotice aborted s).member = s.member := by
  unfold nightNotice
  split
  · split <;> simp
  · simp

@[simp] theorem toldLost_member (lost : PerPool Bool) (s : State) : (toldLost lost s).member = s.member := by
  unfold toldLost
  split <;> simp

@[simp] theorem bootRecordRead_member (s : State) : (bootRecordRead s).member = s.member := by simp [bootRecordRead]

@[simp] theorem firstReport_member (s : State) : (firstReport s).member = s.member := by simp [firstReport]

@[simp] theorem transferReport_member (s : State) : (transferReport s).member = s.member := by simp [transferReport]

@[simp] theorem imageReport_member (s : State) : (imageReport s).member = s.member := by simp [imageReport]

@[simp] theorem reportFlags_member (progress : Nat) (transfer image failed : Bool) (s : State) :
    (reportFlags progress transfer image failed s).member = s.member := by simp [reportFlags]

@[simp] theorem acceptReport_member (progress : Nat) (transfer image failed : Bool) (s : State) :
    (acceptReport progress transfer image failed s).member = s.member := by simp [acceptReport]

@[simp] theorem takeReport_member (progress : Nat) (transfer image failed : Bool) (s : State) :
    (takeReport progress transfer image failed s).member = s.member := by simp [takeReport]

@[simp] theorem reviewIdle_member (s : State) : (reviewIdle s).member = s.member := by simp [reviewIdle]

@[simp] theorem review_member (s : State) : (review s).member = s.member := by simp [review]

/-! ### What the Claim Engine does at the notices of an application -/

@[simp] theorem lostRound_member (s : State) : (lostRound s).member = s.member := by simp [lostRound]

@[simp] theorem dropReservation_member (p : Pool) (s : State) : (dropReservation p s).member = s.member := by
  simp [dropReservation]

@[simp] theorem claimWon_member (p : Pool) (units : Nat) (s : State) : (claimWon p units s).member = s.member := by
  simp [claimWon]

@[simp] theorem ownClaim_member (pool units : Byte) (v : Verdict) (s : State) :
    (ownClaim pool units v s).member = s.member := by
  unfold ownClaim
  split <;> simp

@[simp] theorem ownPark_member (pool : Byte) (v : Verdict) (s : State) : (ownPark pool v s).member = s.member := by
  unfold ownPark
  split <;> simp

@[simp] theorem ownUnpark_member (pool : Byte) (s : State) : (ownUnpark pool s).member = s.member := by
  unfold ownUnpark
  split <;> simp

@[simp] theorem releaseOutcome_member (u : PerPool Nat) (p : Pool) (s : State) :
    (releaseOutcome u p s).member = s.member := by simp [releaseOutcome]

@[simp] theorem ownRelease_member (u : PerPool Nat) (s : State) : (ownRelease u s).member = s.member := by
  simp [ownRelease]

@[simp] theorem peerGrant_member (p : Pool) (s : State) : (peerGrant p s).member = s.member := by
  unfold peerGrant
  split <;> simp

@[simp] theorem losePools_member (lost : PerPool Bool) (s : State) : (losePools lost s).member = s.member := by
  simp [losePools]

@[simp] theorem reclaimedSelf_member (s : State) : (reclaimedSelf s).member = s.member := by simp [reclaimedSelf]

@[simp] theorem nightClearedReservation_member (r0 : Replica) (s : State) :
    (nightClearedReservation r0 s).member = s.member := by
  unfold nightClearedReservation
  split <;> simp

@[simp] theorem engineNotice_member (r0 : Replica) (own : Bool) (b : Body) (v : Verdict) (s : State) :
    (engineNotice r0 own b v s).member = s.member := by
  unfold engineNotice
  split
  case h_2 => split <;> simp
  all_goals simp

@[simp] theorem rereadParked_member (s0 s : State) : (rereadParked s0 s).member = s.member := by
  unfold rereadParked
  split <;> simp

@[simp] theorem claimEmptied_member (s : State) : (claimEmptied s).member = s.member := by simp [claimEmptied]

@[simp] theorem claimLeft_member (s : State) : (claimLeft s).member = s.member := rfl

@[simp] theorem unparkDropped_member (b : Body) (s : State) : (unparkDropped b s).member = s.member := by
  unfold unparkDropped
  split
  · split <;> simp
  · rfl

@[simp] theorem claimWaiting_member (s : State) : (claimWaiting s).member = s.member := by simp [claimWaiting]

@[simp] theorem clearHeldRelease_member (s : State) : (clearHeldRelease s).member = s.member := rfl

@[simp] theorem sendRelease_member (u : PerPool Nat) (s : State) : (sendRelease u s).member = s.member := by
  simp [sendRelease]

@[simp] theorem releaseDelivered_member (s : State) : (releaseDelivered s).member = s.member := by
  simp [releaseDelivered]

@[simp] theorem releaseDropped_member (b : Body) (s : State) : (releaseDropped b s).member = s.member := by
  simp [releaseDropped]

@[simp] theorem releaseWaiting_member (s : State) : (releaseWaiting s).member = s.member := by simp [releaseWaiting]

@[simp] theorem releaseLost_member (b : Body) (s : State) : (releaseLost b s).member = s.member := rfl

@[simp] theorem takeRecord_member (s : State) : (takeRecord s).member = s.member := by simp [takeRecord]

@[simp] theorem takeReservation_member (s : State) : (takeReservation s).member = s.member := by
  simp [takeReservation]

@[simp] theorem unparkUnusable_member (s : State) : (unparkUnusable s).member = s.member := by simp [unparkUnusable]

@[simp] theorem poolsFound_member (found : PerPool Bool) (s : State) : (poolsFound found s).member = s.member := by
  unfold poolsFound
  dsimp only
  split <;> simp

@[simp] theorem reconcile_member (s : State) : (reconcile s).member = s.member := by simp [reconcile]

@[simp] theorem settleOwed_member (s : State) : (settleOwed s).member = s.member := by simp [settleOwed]

@[simp] theorem engineEntry_member (s : State) : (engineEntry s).member = s.member := by simp [engineEntry]

/-! ### The Night Unit -/

@[simp] theorem rejectMessage_member (reason : RejectReason) (s : State) :
    (rejectMessage reason s).member = s.member := rfl

@[simp] theorem acceptMessage_member (m : OrderMsg) (s : State) : (acceptMessage m s).member = s.member := by
  simp [acceptMessage]

@[simp] theorem checkMessage_member (m : List Byte) (s : State) : (checkMessage m s).member = s.member := by
  unfold checkMessage
  split
  · simp
  · dsimp only
    split <;> simp

@[simp] theorem receiveMessage_member (m : List Byte) (s : State) : (receiveMessage m s).member = s.member := rfl

@[simp] theorem sawSilence_member (s : State) : (sawSilence s).member = s.member := rfl

@[simp] theorem orderSilence_member (line : LineBytes) (s : State) : (orderSilence line s).member = s.member := by
  simp [orderSilence]

@[simp] theorem forgetRelay_member (s : State) : (forgetRelay s).member = s.member := rfl

@[simp] theorem rejudgeRelay_member (s : State) : (rejudgeRelay s).member = s.member := by
  unfold rejudgeRelay
  split
  · split <;> simp
  · rfl

@[simp] theorem workStep_member (s : State) : (workStep s).member = s.member := by
  unfold workStep
  split
  · rfl
  · split <;> simp

@[simp] theorem expireCount_member (c : NightCount) (s : State) : (expireCount c s).member = s.member := by
  unfold expireCount
  split <;> rfl

@[simp] theorem setCount_member (c : NightCount) (t : Timer) (s : State) : (setCount c t s).member = s.member := by
  unfold setCount
  split <;> rfl

@[simp] theorem runCount_member (c : NightCount) (duration age : Nat) (s : State) :
    (runCount c duration age s).member = s.member := by simp [runCount]

@[simp] theorem clearCounts_member (s : State) : (clearCounts s).member = s.member := rfl

@[simp] theorem countsAt_member (t : NightState) (s : State) : (countsAt t s).member = s.member := by
  unfold countsAt
  split <;> rfl

@[simp] theorem orderCounts_member (age : Nat) (s : State) : (orderCounts age s).member = s.member := by
  simp [orderCounts]

@[simp] theorem nightCounts_member (age : Nat) (s : State) : (nightCounts age s).member = s.member := by
  simp [nightCounts]

@[simp] theorem raiseRunning_member (s : State) : (raiseRunning s).member = s.member := by simp [raiseRunning]

@[simp] theorem patienceRunning_member (s : State) : (patienceRunning s).member = s.member := by
  simp [patienceRunning]

@[simp] theorem nightApplied_member (b : Body) (age : Nat) (s : State) :
    (nightApplied b age s).member = s.member := by
  unfold nightApplied
  split <;> simp

@[simp] theorem countsFromRun0_member (run0 : List Byte) (s : State) :
    (countsFromRun0 run0 s).member = s.member := rfl

/-! ### The slots of the catch-up -/

@[simp] theorem placeRun0_member (s : State) : (placeRun0 s).member = s.member := by simp [placeRun0]

@[simp] theorem refreshRun0_member (s : State) : (refreshRun0 s).member = s.member := by
  unfold refreshRun0
  split <;> simp

@[simp] theorem currentRun0_member (s : State) : (currentRun0 s).member = s.member := by
  unfold currentRun0
  split <;> simp

@[simp] theorem answerAgain_member (s : State) : (answerAgain s).member = s.member := by simp [answerAgain]

@[simp] theorem nightNotices_member (b : Body) (s : State) : (nightNotices b s).member = s.member := by
  simp [nightNotices]

/-! ### The queue at the entries to the membership states -/

@[simp] theorem placeAsk_member (s : State) : (placeAsk s).member = s.member := by
  unfold placeAsk
  split <;> rfl

@[simp] theorem askEmptied_member (s : State) : (askEmptied s).member = s.member := by simp [askEmptied]

@[simp] theorem clearReplica_member (s : State) : (clearReplica s).member = s.member := rfl

@[simp] theorem oweWaiting_member (s : State) : (oweWaiting s).member = s.member := by
  unfold oweWaiting
  split <;> rfl

@[simp] theorem desyncQueue_member (s : State) : (desyncQueue s).member = s.member := by simp [desyncQueue]

@[simp] theorem clearQueue_member (s : State) : (clearQueue s).member = s.member := rfl

@[simp] theorem forgetClaimFrame_member (s : State) : (forgetClaimFrame s).member = s.member := by
  simp [forgetClaimFrame]

/-! ### Attempts and what a delivery counts -/

@[simp] theorem startSending_member (src : Source) (field : Word16) (s : State) :
    (startSending src field s).member = s.member := by
  unfold startSending
  split <;> rfl

@[simp] theorem slotWaiting_member (src : Source) (s : State) : (slotWaiting src s).member = s.member := by
  unfold slotWaiting
  split <;> simp

@[simp] theorem toldCleared_member (src : Source) (b : Body) (s : State) :
    (toldCleared src b s).member = s.member := by
  unfold toldCleared
  split <;> simp

@[simp] theorem resetVetoRun_member (s : State) : (resetVetoRun s).member = s.member := rfl

@[simp] theorem countDelivery_member (own : Bool) (sender : Nat) (s : State) :
    (countDelivery own sender s).member = s.member := by simp [countDelivery]

end Sys2Proof.Machine
end

