-- ==== Sys2Proof/Proofs/Carried.lean ====
section
/-! PROOFS. What all commands but a frame's delivery leave alone, up to the block a command is there to write: the
replica, the ages, the settings, the inputs, the slots that are not SENDING, and the catch-up or its absence. -/

namespace Sys2Proof.Machine

/-! ### The answerer side of the Membership Unit (R52 to R57) -/

/-- R52 to R57: the Membership Unit without its answerer side and its watch. -/
def Member.joiner (m : Member) : Member :=
  { m with
    answerPending := false, askHeld := false, asker := 0, position := 0, snapshot := none, pause := .stopped
    watch := none }

@[simp] theorem startAnswer_joiner (asker : Nat) (s : State) :
    (startAnswer asker s).member.joiner = s.member.joiner :=
  (congrArg Member.joiner (placeRun0_member _)).trans rfl

@[simp] theorem clearAnswerer_joiner (s : State) : (clearAnswerer s).member.joiner = s.member.joiner := rfl

@[simp] theorem stopSeries_joiner (s : State) : (stopSeries s).member.joiner = s.member.joiner :=
  (congrArg Member.joiner (withdraw_member _ _)).trans rfl

@[simp] theorem placeRun_joiner (k : Nat) (s : State) : (placeRun k s).member.joiner = s.member.joiner := by
  unfold placeRun
  split
  · exact (congrArg Member.joiner (place_member _ _ _)).trans rfl
  · rfl

@[simp] theorem beginSeries_joiner (s : State) : (beginSeries s).member.joiner = s.member.joiner :=
  placeRun_joiner 1 (s.setMember _)

@[simp] theorem runDelivered_joiner (k : Nat) (s : State) :
    (runDelivered k s).member.joiner = s.member.joiner := by
  unfold runDelivered
  split_ifs
  · rfl
  · rfl
  · rfl
  · simp

@[simp] theorem seriesDelivered_joiner (b : Body) (s : State) :
    (seriesDelivered b s).member.joiner = s.member.joiner := by
  unfold seriesDelivered
  split
  · split_ifs <;> simp
  · rfl

@[simp] theorem seriesDropped_joiner (b : Body) (s : State) :
    (seriesDropped b s).member.joiner = s.member.joiner := by
  unfold seriesDropped
  split
  · simp
  · exact (congrArg Member.joiner (answerAgain_member _)).trans rfl

@[simp] theorem answerHeld_joiner (s : State) : (answerHeld s).member.joiner = s.member.joiner := by
  unfold answerHeld
  split
  · exact startAnswer_joiner 0 (s.setMember _)
  · rfl

@[simp] theorem endWatch_joiner (s : State) : (endWatch s).member.joiner = s.member.joiner := by
  unfold endWatch
  split
  · exact answerHeld_joiner (s.setMember _)
  · rfl

@[simp] theorem watchRun_joiner (sender k : Nat) (s : State) :
    (watchRun sender k s).member.joiner = s.member.joiner := by
  unfold watchRun
  split
  · rfl
  · split
    · split
      · rfl
      · simp
    · rfl

@[simp] theorem run0Applied_joiner (own : Bool) (s : State) :
    (run0Applied own s).member.joiner = s.member.joiner := by
  unfold run0Applied
  dsimp only
  split_ifs
  · rfl
  · exact stopSeries_joiner (s.setMember _)
  · split
    · split
      · exact (congrArg Member.joiner (withdraw_member _ _)).trans rfl
      · rfl
    · rfl
    · rfl

@[simp] theorem askApplied_joiner (sender : Nat) (s : State) :
    (askApplied sender s).member.joiner = s.member.joiner := by
  unfold askApplied
  split_ifs
  · rfl
  · rfl
  · simp

@[simp] theorem catchUpNotice_joiner (own : Bool) (sender : Nat) (b : Body) (s : State) :
    (catchUpNotice own sender b s).member.joiner = s.member.joiner := by
  unfold catchUpNotice
  split
  · split <;> simp
  · split_ifs <;> simp
  · rfl

@[simp] theorem applyParts_member (own : Bool) (sender : Nat) (b : Body) (age : Nat) (s : State) :
    (applyParts own sender b age s).member = s.member := by
  unfold applyParts
  dsimp only
  split <;> simp

@[simp] theorem applyLive_joiner (own : Bool) (sender : Nat) (b : Body) (s : State) :
    (applyLive own sender b s).member.joiner = s.member.joiner := by
  unfold applyLive
  dsimp only
  split_ifs <;> simp

/-- R64: the blocks told of the entry to IN_SYNC write nothing of the Membership Unit. -/
@[simp] theorem enterSync_member (s : State) : (enterSync s).member = (syncEntry s).member := by simp [enterSync]

/-- R14: a source told of a delivery ends no catch-up. -/
theorem toldDelivered_joiner {src : Source} (h : src ≠ .ask) (b : Body) (s : State) :
    (toldDelivered src b s).member.joiner = s.member.joiner := by
  cases src with
  | ask => exact absurd rfl h
  | _ => simp [toldDelivered]

/-- R17: a source told of a drop ends no catch-up, but for the ask source. -/
theorem toldDropped_joiner {src : Source} (h : src ≠ .ask) (b : Body) (s : State) :
    (toldDropped src b s).member.joiner = s.member.joiner := by
  cases src with
  | ask => exact absurd rfl h
  | _ => simp [toldDropped]

/-! ### Carried over -/

/-- R25, R35, R58, R59: the replica, the ages, the settings, the loader and the inputs are kept, no slot becomes
SENDING, and the adopted series and its buffer are kept, or both are gone. -/
structure Carried (z t : State) : Prop extends Kept z t where
  sending : ∀ src, (t.slot src).isSending = true → (z.slot src).isSending = true
  catchUp : (t.member.adopted = z.member.adopted ∧ t.member.buffer = z.member.buffer)
    ∨ (t.member.adopted = none ∧ t.member.buffer = [])

namespace Carried

variable {z s t u : State}

theorem refl (s : State) : Carried s s := ⟨.refl s, fun _ h => h, .inl ⟨rfl, rfl⟩⟩

theorem trans (h : Carried z s) (k : Carried s t) : Carried z t where
  toKept := h.toKept.trans k.toKept
  sending src ht := h.sending src (k.sending src ht)
  catchUp := by
    rcases k.catchUp with ⟨adopted, buffer⟩ | gone
    · rw [adopted, buffer]; exact h.catchUp
    · exact .inr gone

theorem ite {c : Prop} [Decidable c] (hs : Carried z s) (ht : Carried z t) : Carried z (if c then s else t) := by
  split <;> assumption

/-- What the blocks and the answerer side do. -/
theorem blocks (h : Carried z s) (k : Kept s t) (l : LineKept s t)
    (m : t.member.joiner = s.member.joiner := by simp) : Carried z t :=
  h.trans ⟨k, l.sending, .inl ⟨(congrArg Member.adopted m :), (congrArg Member.buffer m :)⟩⟩

/-- A write that leaves the queue and the catch-up. -/
theorem congr (h : Carried z s) (k : Kept s t := by exact ⟨rfl, rfl, rfl, rfl, rfl, rfl, rfl⟩)
    (hq : t.rli.queue = s.rli.queue := by rfl) (ha : t.member.adopted = s.member.adopted := by rfl)
    (hb : t.member.buffer = s.member.buffer := by rfl) : Carried z t :=
  h.trans ⟨k, fun src => by simp only [State.slot, hq]; exact id, .inl ⟨ha, hb⟩⟩

/-- A write that ends the catch-up. -/
theorem ended (h : Carried z s) (k : Kept s t := by exact ⟨rfl, rfl, rfl, rfl, rfl, rfl, rfl⟩)
    (hq : t.rli.queue = s.rli.queue := by rfl) (ha : t.member.adopted = none := by rfl)
    (hb : t.member.buffer = [] := by rfl) : Carried z t :=
  h.trans ⟨k, fun src => by simp only [State.slot, hq]; exact id, .inr ⟨ha, hb⟩⟩

theorem setLink (h : Carried z s) {x : LinkPort} : Carried z (s.setLink x) := h.congr

theorem setSeq (h : Carried z s) {x : Sequencer} : Carried z (s.setSeq x) := h.congr

/-- A slot that is written is not SENDING. -/
theorem setSlot (h : Carried z s) {src : Source} {x : Slot} (hx : x.isSending = false) : Carried z (s.setSlot src x) :=
  h.trans ⟨⟨rfl, rfl, rfl, rfl, rfl, rfl, rfl⟩, fun o ho => by
    by_cases same : o = src
    · subst same; rw [slot_setSlot_self, hx] at ho; cases ho
    · rwa [slot_setSlot_ne s x same] at ho, .inl ⟨rfl, rfl⟩⟩

/-- What is carried over beside the replica is so under any replica. -/
theorem setReplica (h : Carried z s) (x : Replica) : Carried (z.setReplica x) (s.setReplica x) :=
  ⟨⟨rfl, h.lastHeard, h.pins, h.loader, h.cfg, h.freeCount, h.pending⟩, h.sending, h.catchUp⟩

theorem clearReplica (h : Carried z s) : Carried (z.setReplica Replica.cold) (clearReplica s) :=
  (h.setReplica Replica.cold).congr

/-! ### The membership states -/

theorem placeAsk (h : Carried z s) : Carried z (placeAsk s) := h.blocks (.placeAsk (.refl s)) (.placeAsk (.refl s))

theorem joinEntry (h : Carried z s) : Carried z (joinEntry s) :=
  (h.ended (t := (clearJoiner s).setMember _)).placeAsk

theorem isolate (h : Carried z s) (duplicate : Bool) : Carried z (isolate duplicate s) := .ite h.ended h.ended

theorem askUnsuccessful (h : Carried z s) : Carried z (askUnsuccessful s) :=
  .ite (h.isolate _) (h.congr (t := s.setMember _)).placeAsk

theorem abandon (h : Carried z s) : Carried z (abandon s) := (h.ended (t := clearJoiner s)).askUnsuccessful

theorem seriesGapOver (h : Carried z s) : Carried z (seriesGapOver s) := by
  unfold Machine.seriesGapOver
  dsimp only
  split
  · exact h.abandon.congr
  · exact h.abandon

theorem askDropped (h : Carried z s) : Carried z (askDropped s) :=
  .ite (h.congr (t := s.setMember _)).askUnsuccessful h

theorem askEmptied (h : Carried z s) : Carried z (askEmptied s) :=
  h.blocks (.askEmptied (.refl s)) (.askEmptied (.refl s))

theorem enterSync (h : Carried z s) : Carried z (enterSync s) :=
  (h.ended (t := syncEntry s)).blocks
    (.review (.keepMark (.evaluateGate (.patienceAtSync (.workStep (.engineEntry (.refl _)))))))
    (.review (.keepMark (.evaluateGate (.patienceAtSync (.workStep (.engineEntry (.refl _)))))))

theorem foundRow (h : Carried z s) : Carried z (foundRow s) := (h.congr (t := recordInstall 0 0 s)).enterSync

theorem duplicateReported (h : Carried z s) : Carried z (duplicateReported s) := by
  unfold Machine.duplicateReported
  split
  case h_1 | h_2 | h_3 => exact h.isolate _
  all_goals exact h

theorem askWaitOver (h : Carried z s) : Carried z (askWaitOver s) :=
  .ite (h.congr (t := s.setMember _)).foundRow (h.congr (t := s.setMember _)).askUnsuccessful

theorem watchGapOver (h : Carried z s) : Carried z (watchGapOver s) :=
  h.blocks (.watchGapOver (.refl s)) (.endWatch (.ite (.refl s) (.stopSeries (.refl s))))
    (by simp [Machine.watchGapOver, apply_ite Member.joiner])

/-! ### What a source does when its attempt ends -/

theorem toldCleared (h : Carried z s) (src : Source) (b : Body) : Carried z (toldCleared src b s) :=
  h.blocks (.toldCleared src b (.refl s)) (.toldCleared (.refl s) src b)

theorem toldDelivered (h : Carried z s) (src : Source) (b : Body) : Carried z (toldDelivered src b s) := by
  by_cases ask : src = .ask
  · subst ask
    exact (ite h.congr h : Carried z (askDelivered s)).askEmptied
  · exact h.blocks (.toldDelivered src b (.refl s)) (.toldDelivered (.refl s) src b) (toldDelivered_joiner ask b s)

theorem toldDropped (h : Carried z s) (src : Source) (b : Body) : Carried z (toldDropped src b s) := by
  have of_line (ask : src ≠ .ask) (l : LineKept s (Machine.toldDropped src b s)) :
      Carried z (Machine.toldDropped src b s) :=
    h.blocks (.toldDropped src b (.refl s)) l (toldDropped_joiner ask b s)
  cases src with
  | order => exact of_line (by decide) (.forgetRelay (.refl s))
  | night => exact of_line (by decide) (.workStep (.refl s))
  | claim => exact of_line (by decide) (.claimEmptied (.unparkDropped (.claimLeft (.refl s)) b))
  | release => exact of_line (by decide) (.releaseDropped (.refl s) b)
  | reclaim => exact of_line (by decide) (.judgeWatch (.refl s))
  | mark => exact of_line (by decide) (.markDropped (.refl s))
  | ask => exact h.askDropped.askEmptied
  | series => exact of_line (by decide) (.seriesDropped (.refl s) b)

theorem ownSlotEmptied (h : Carried z s) (src : Source) (b : Body) (cleared : Bool) :
    Carried z (ownSlotEmptied src b cleared s) :=
  .ite ((h.setSlot rfl).toldCleared src b) ((h.setSlot rfl).toldDelivered src b)

/-! ### Attempts and vetoes (R7, R9, R15 to R19) -/

theorem attemptBack (h : Carried z s) (src : Source) (q : Queued) (cleared : Bool) :
    Carried z (attemptBack src q cleared s) :=
  .ite ((h.setSlot rfl).toldCleared src q.body)
    ((h.setSlot (x := .waiting q) rfl).blocks (.slotWaiting src (.refl _)) (.slotWaiting (.refl _) src))

theorem loseArbitration (h : Carried z s) : Carried z (loseArbitration s) := by
  unfold Machine.loseArbitration
  split
  · exact h
  · split
    · exact (h.congr (t := countArbLoss s)).attemptBack _ _ _
    · exact h
    · exact h

theorem noteCollision (h : Carried z s) : Carried z (noteCollision s) :=
  .ite (h.congr (t := s.setRli _)).duplicateReported h.congr

theorem collide (h : Carried z s) : Carried z (collide s) := by
  unfold Machine.collide
  split
  · exact h
  · split
    · exact (h.attemptBack _ _ _).noteCollision
    · exact h
    · exact h

theorem lineSticks (h : Carried z s) : Carried z (lineSticks s) := by
  have back : Carried z (backAtStuck s) := by
    unfold backAtStuck
    split
    · exact h
    · split
      · exact h.attemptBack _ _ _
      · exact h
      · exact h
  exact back.congr

theorem ownVetoed (h : Carried z s) (src : Source) (q : Queued) (cleared : Bool) :
    Carried z (ownVetoed src q cleared s) := by
  have counted : Carried z (resetVetoRun (countVetoed (s.setRli { s.rli with collisions := 0 }))) := h.congr
  have emptied := counted.setSlot (src := src) (x := .empty) rfl
  exact .ite ((emptied.congr (t := raise .lineFault _)).toldDropped src q.body) (counted.attemptBack _ _ _)

/-- R14: what a delivery counts, beside the age of the frame's sender. -/
theorem countDelivery (own : Bool) (n : Nat) (s : State) :
    Carried (s.setLastHeard (resetAge s.lastHeard n)) (countDelivery own n s) := by
  cases own with
  | false => exact (refl _).congr
  | true =>
    rw [countDelivery_own]
    exact ((refl (s.setLastHeard (resetAge s.lastHeard n))).congr (t := ownCounted n s)).blocks
      (.keepRestart (.refl _)) (.keepRestart (.refl _))

end Carried

/-- R66, R69: the replica has been cleared on the way to JOINING, and all else is carried over. -/
structure Cleared (z t : State) : Prop where
  carried : Carried (z.setReplica Replica.cold) t
  joining : t.member.state = .joining

/-- All is carried over, but that the replica may have been cleared on the way to JOINING. -/
def MayClear (z t : State) : Prop := Carried z t ∨ Cleared z t

theorem joinEntry_joining (s : State) : (joinEntry s).member.state = .joining := by simp [joinEntry]

namespace Cleared

variable {z s t : State}

theorem trans (h : Carried z s) (k : Cleared s t) : Cleared z t :=
  ⟨(h.setReplica _).trans k.carried, k.joining⟩

/-- A write of the link leaves a station cleared. -/
theorem setLink (h : Cleared z s) (x : LinkPort) : Cleared z (s.setLink x) := ⟨h.carried.congr, h.joining⟩

/-- R66: DESYNC clears the replica on its way to JOINING. -/
theorem desync (s : State) : Cleared s (desync s) := by
  have left : Carried s (clearAnswerer (desyncQueue s)) :=
    (Carried.refl s).blocks (.clearAnswerer (.desyncQueue (.refl s))) (.clearAnswerer (.desyncQueue (.refl s)))
  have suspend {u : State} (h : Carried s u) : Carried s
      (suspendEngine (raise .desync (u.setMember { u.member with watch := none }))) := h.congr
  exact ⟨(suspend left).clearReplica.joinEntry, joinEntry_joining _⟩

/-- R23: a slot that rejoin clears is SENDING only if it was. -/
theorem clearQueue {s : State} (h : Carried z s) : Carried z (clearQueue s) :=
  h.trans ⟨.clearQueue (.refl s), fun src hs => by rwa [clearQueue_slot, Slot.cleared_isSending] at hs,
    .inl ⟨rfl, rfl⟩⟩

/-- R69: a rejoin clears the replica on its way to JOINING. -/
theorem rejoinStation (s : State) : Cleared s (rejoinStation s) := by
  have queue := clearQueue ((Carried.refl s).clearReplica.blocks
    (.forgetClaimFrame (.forgetRelay (.oweWaiting (.refl _))))
    (.forgetClaimFrame (.forgetRelay (.oweWaiting (.refl _)))))
  exact ⟨(queue.congr (t := State.setRli _ _)).joinEntry, joinEntry_joining _⟩

end Cleared

namespace MayClear

variable {z s t : State}

theorem carry (h : Carried z s) (k : MayClear s t) : MayClear z t := k.imp h.trans (.trans h)

theorem ite {c : Prop} [Decidable c] (hs : MayClear z s) (ht : MayClear z t) : MayClear z (if c then s else t) := by
  split <;> assumption

theorem raiseVetoRun (s : State) : MayClear s (raiseVetoRun s) := by
  have withheld := (Carried.refl s).congr (t := s.setRli { s.rli with vetoRun := 0, permission := .withheld })
  exact .ite (.inl (Carried.refl s).congr)
    (.ite (.inr (.trans withheld (.desync _))) (.inl withheld))

theorem heardVetoed (faulty : Bool) (s : State) : MayClear s (heardVetoed faulty s) := by
  have counted := (Carried.refl s).congr (t := countVetoed s)
  have reset := (Carried.refl s).congr (t := resetVetoRun (countVetoed s))
  exact .ite (.carry counted (raiseVetoRun _)) (.ite (.inl reset.abandon) (.inl reset))

theorem heardFaulty (s : State) : MayClear s (heardFaulty s) :=
  .carry (Carried.refl s).congr (heardVetoed true _)

theorem frameEndsVetoed (f : LineFrame) (s : State) : MayClear s (frameEndsVetoed f s) := by
  have same : MayClear s s := .inl (.refl s)
  unfold Machine.frameEndsVetoed
  split
  · split
    · exact same
    · split
      · exact .ite (.inl ((Carried.refl s).ownVetoed _ _ _)) same
      · exact same
      · exact same
  · refine .ite ?_ same
    split
    · exact heardVetoed _ _
    · exact heardFaulty _
    · exact heardFaulty _
    · exact same

/-- R155: a byte written to a register leaves what its effect leaves. -/
theorem busWrite (r : Register) {effect : State → State} (s : State) (he : MayClear s (effect s)) :
    MayClear s (busWrite r effect s) :=
  .ite (he.imp (·.congr) (·.setLink _)) (.inl (Carried.refl s).congr)

theorem busCommand {effect : State → State} (he : ∀ s, MayClear s (effect s)) (s : State) :
    MayClear s (busCommand effect s) :=
  busWrite _ s (.ite (.inl (.refl s)) (.carry (Carried.refl s).congr (he _)))

theorem takeRejoin (s : State) : MayClear s (takeRejoin s) :=
  .ite (.inl (Carried.refl s).congr) (.inr ((Cleared.rejoinStation s).setLink _))

theorem takeCommand (code argument : Byte) (s : State) : MayClear s (takeCommand code argument s) :=
  .ite (takeRejoin s) (.ite (.inl ((Carried.refl s).congr (t := takeProbe argument s)))
    (.inl ((Carried.refl s).congr (t := noteCommand code .unknown s))))

end MayClear

end Sys2Proof.Machine
end

