-- ==== Sys2Proof/Proofs/Effects.lean ====
section
/-! PROOFS. What each command can do, said once (`exec_effect`): O4 is read from it. -/

namespace Sys2Proof.Machine

namespace Carried

variable {z s t : State}

/-! ### The desktop link -/

theorem busWrite (h : Carried z s) (r : Register) {effect : State → State} (he : Carried z (effect s)) :
    Carried z (busWrite r effect s) := .ite he.setLink h.setLink

theorem busCommand (h : Carried z s) {effect : State → State} (he : ∀ {s}, Carried z s → Carried z (effect s)) :
    Carried z (busCommand effect s) :=
  h.busWrite _ (.ite h (he h.setLink))

theorem pointTo (h : Carried z s) (address : BitVec 7) (b : Byte) : Carried z (pointTo address b s) := by
  unfold Machine.pointTo
  refine .ite ?_ h.setLink
  split <;> exact h.setLink

theorem writeData (h : Carried z s) (value : Byte) : Carried z (writeData value s) := by
  have handed : Carried z (handReport (s.link.report ++ [value]) s) :=
    (h.setLink.blocks (.takeReport _ _ _ _ (.refl _)) (.takeReport (.refl _) _ _ _ _)).setLink
  exact .ite (.ite h.setLink handed) h

theorem advanceIndex (h : Carried z s) : Carried z (advanceIndex s) := .ite h.setLink h.setLink

theorem readData (h : Carried z s) : Carried z (readData s) := by
  have told {x : LinkPort} : Carried z (passBegun (s.setLink x)) :=
    .ite h.setLink.setLink (.ite (h.setLink.blocks (.bootRecordRead (.refl _)) (.bootRecordRead (.refl _))) h.setLink)
  have pass : Carried z (if s.beginsPass then beginPass s else s) := .ite told h
  exact (ite pass.setLink.setLink pass.setLink).advanceIndex

theorem readEvents (h : Carried z s) (position : Nat) : Carried z (readEvents position s) := by
  have copied : Carried z (copyEvents position s) := .ite h.setLink h
  unfold Machine.readEvents
  split
  · exact h.setLink
  · exact .ite copied.setLink h.setLink

theorem busRead (h : Carried z s) (address : BitVec 7) (position : Nat) : Carried z (busRead address position s) := by
  have ended : Carried z (endWrite s) := h.setLink
  refine .ite ?_ h.setLink
  unfold readRegister
  split
  · exact ended.readData
  · exact ended.readEvents _
  all_goals exact h.setLink

theorem writeEvents (h : Carried z s) (position : Nat) (value : Byte) : Carried z (writeEvents position value s) := by
  unfold Machine.writeEvents
  split
  · exact h
  · exact h.setLink

/-- R172: a command that is no REJOIN. -/
theorem takeCommand {code : Byte} (h : Carried z s) (other : code ≠ 0x01) (argument : Byte) :
    Carried z (takeCommand code argument s) := by
  unfold Machine.takeCommand
  rw [if_neg other]
  exact .ite h.setLink h.setLink

/-! ### Power and timers -/

theorem claimAgeOver (h : Carried z s) : Carried z (claimAgeOver s) := by
  unfold Machine.claimAgeOver
  split
  · exact h.blocks (.claimEmptied (.stopClaimAge (.withdraw _ (.refl s))))
      (.claimEmptied (.stopClaimAge (.withdraw (.refl s) _)))
  · exact h.congr
  · exact h.congr

theorem localEntry (h : Carried z s) : Carried z (localEntry s) :=
  h.blocks (.localEntry (.refl s)) (.localEntry (.refl s))

theorem failAttempt (h : Carried z s) (c : Cause) : Carried z (failAttempt c s) :=
  h.blocks (.failAttempt c (.refl s)) (.failAttempt (.refl s) c)

theorem finishDone (h : Carried z s) : Carried z (finishDone s) :=
  h.blocks (.finishDone (.refl s)) (.finishDone (.refl s))

theorem longPress (h : Carried z s) : Carried z (longPress s) :=
  h.blocks (.longPress (.refl s)) (.longPress (.refl s))

theorem powerGoodRises (h : Carried z s) : Carried z (powerGoodRises s) := by
  unfold Machine.powerGoodRises
  split
  · exact h.congr
  · exact h.localEntry
  · exact h.localEntry
  all_goals exact h

theorem powerGoodFalls (h : Carried z s) : Carried z (powerGoodFalls s) := by
  unfold Machine.powerGoodFalls
  split
  case h_4 => exact h.finishDone
  case h_1 | h_2 | h_3 => exact h.failAttempt _
  all_goals exact h

theorem pressBegins (h : Carried z s) : Carried z (pressBegins s) := by
  unfold Machine.pressBegins
  split
  case h_6 | h_7 => exact (h.congr (t := passPress s)).localEntry
  all_goals exact h.congr

theorem pressHeldOut (h : Carried z s) : Carried z (pressHeldOut s) := by
  have passed : Carried z ((passPress s).setSeq { (passPress s).seq with pressTimer := .stopped }) := h.congr
  unfold Machine.pressHeldOut
  dsimp only
  split
  case h_9 | h_10 | h_11 | h_12 | h_13 => exact passed
  all_goals exact passed.longPress

theorem gatePatienceOver (h : Carried z s) {t : State} (ht : execGatePatienceExpiry s = .next t) : Carried z t := by
  obtain rfl := Host.Outcome.next.inj ht
  split
  · exact h.blocks (.evaluateGate (.setGate (.refl s))) (.evaluateGate (.setGate (.refl s)))
  · exact h
  · exact h

end Carried

/-! ### Every command -/

/-- What a command can do: all is carried over, or all but the blocks it is there to write; an attempt starts, or a
frame is delivered. -/
inductive Effect (c : Instr) (s t : State) : Prop where
  | carried (k : Carried s t)
  /-- R66, R69 -/
  | cleared (may : mayWriteReplica c = true) (k : Cleared s t)
  /-- R35 -/
  | aged (may : mayWriteAges c = true) (k : Carried (s.setLastHeard (passSecond s.lastHeard)) t)
  /-- R173, R176, R177 -/
  | configured (may : mayWriteSettings c = true) (l : Loader) (x : Settings)
      (k : Carried ((s.setLoader l).setCfg x) t) (out : t.member.state ≠ .inSync)
  /-- R129, R130 -/
  | driven (may : mayWritePins c = true) (x : Pins) (k : Carried (s.setPins x) t)
  /-- R173 -/
  | cold (powerGood supplyReq panelButton : Bool) (hc : c = .coldStart powerGood supplyReq panelButton)
      (ht : t = (State.cold ⟨supplyReq, powerGood, panelButton⟩ s.pending).setFreeCount s.freeCount)
  /-- R4, R8 -/
  | started (hc : c = .attemptStart) (ht : t = startAttempt s)
  /-- R14 -/
  | delivered (f : LineFrame) (hc : c = .frameDelivered f) (ht : t = frameEndsDelivered f s)

namespace Effect

variable {c : Instr} {s t x : State}

/-- What a command does to the state it answers is what it does to the next state. -/
theorem answered (hx : Effect c s x) (h : (.next x : Host.Outcome State Fault Refusal) = .next t) : Effect c s t := by
  obtain rfl := Host.Outcome.next.inj h
  exact hx

theorem mayClear (may : mayWriteReplica c = true) (k : MayClear s x) : Effect c s x := k.elim .carried (.cleared may)

/-- R173, R177: the verdict FAULT leaves the station UNCONFIGURED. -/
theorem fault (may : mayWriteSettings c = true) (s : State) : Effect c s (configFault s) :=
  .configured may { state := .fault, readLimit := .stopped, image := [] } s.cfg (Carried.refl (s.setLoader _)).congr
    (show MembershipState.unconfigured ≠ .inSync by decide)

/-- R175, R176: a verdict leaves the station JOINING or UNCONFIGURED. -/
theorem verdict (may : mayWriteSettings c = true) (block : List Byte) (s : State) :
    Effect c s (if blockValid block then configValid block s else configFault s) := by
  have settled : Carried ((s.setLoader { state := .valid, readLimit := .stopped, image := [] }).setCfg
      (readSettings block)) (configValid block s) := ((Carried.refl _).congr (t := State.setLink _ _)).joinEntry
  split
  · exact .configured may _ _ settled (by rw [configValid, joinEntry_joining]; decide)
  · exact .fault may s

end Effect

open Carried (refl) in
/-- What each command does. -/
theorem exec_effect {s t : State} : ∀ {c : Instr}, exec c s = .next t → Effect c s t
  | .coldStart p q r, h => .answered (.cold p q r rfl rfl) h
  | .configReadDone block, h => by
    obtain rfl := Host.Outcome.next.inj h
    split
    · exact .verdict rfl block s
    · exact .carried (refl s)
  | .readLimitExpiry, h => by
    obtain rfl := Host.Outcome.next.inj h
    split
    · exact .fault rfl s
    · exact .carried (refl s)
  | .attemptStart, h => .answered (.started rfl rfl) h
  | .lostArbitration, h => .answered (.carried (refl s).loseArbitration) h
  | .collision, h => .answered (.carried (refl s).collide) h
  | .lostFraming, h => .answered (.mayClear rfl (.ite (.heardFaulty s) (.inl (refl s)))) h
  | .frameDelivered f, h => .answered (.delivered f rfl rfl) h
  | .frameVetoed f, h => .answered (.mayClear rfl (.frameEndsVetoed f s)) h
  | .stuckLine, h => .answered (.carried (.ite (refl s).lineSticks (refl s))) h
  | .stuckLineClear, h => .answered (.carried (refl s).congr) h
  | .orderMessage line, h =>
    .answered (.carried (.ite ((refl s).blocks (.orderSilence line (.refl s))
      (.orderSilence (.refl s) line)) (refl s))) h
  | .pointerWrite address byte, h => .answered (.carried ((refl s).pointTo address byte)) h
  | .viewWrite _, h => .answered (.carried ((refl s).busWrite _ (.ite (refl s).setLink (refl s)))) h
  | .indexWrite _, h => .answered (.carried ((refl s).busWrite _ (refl s).setLink)) h
  | .stationWrite _, h => .answered (.carried ((refl s).busWrite _ (.ite (refl s).setLink (refl s)))) h
  | .dataRead address, h => .answered (.carried ((refl s).busRead address 0)) h
  | .dataWrite value, h => .answered (.carried ((refl s).busWrite _ ((refl s).writeData value))) h
  | .eventsRead address position, h => .answered (.carried ((refl s).busRead address position)) h
  | .eventsWrite position value, h =>
    .answered (.carried ((refl s).busWrite _ ((refl s).writeEvents position value))) h
  | .eventMaskWrite _ _, h => .answered (.carried ((refl s).busWrite _ (.ite (refl s).setLink (refl s)))) h
  | .rejoin _, h => .answered (.mayClear rfl (.busCommand .takeRejoin s)) h
  | .probe _, h => .answered (.carried ((refl s).busCommand fun h => h.setLink.setLink)) h
  | .unknownCommand code argument, h => by
    obtain rfl := Host.Outcome.next.inj h
    by_cases rejoin : code = 0x01
    · exact .mayClear (beq_iff_eq.mpr rejoin) (.busCommand (.takeCommand code argument) s)
    · exact .carried ((refl s).busCommand fun h => h.takeCommand rejoin argument)
  | .powerGoodRise, h => by
    obtain rfl := Host.Outcome.next.inj h
    split
    · exact .carried (refl s)
    · exact .driven rfl _ (refl (s.setPins _)).powerGoodRises
  | .powerGoodFall, h => by
    obtain rfl := Host.Outcome.next.inj h
    split
    · exact .driven rfl _ (refl (s.setPins _)).powerGoodFalls
    · exact .carried (refl s)
  | .supplyReqRelease, h => .answered (.driven rfl _ (.ite (refl (s.setPins _)) (refl (s.setPins _)).congr)) h
  | .pressBegin, h => by
    obtain rfl := Host.Outcome.next.inj h
    split
    · exact .carried (refl s)
    · exact .driven rfl _ (refl (s.setPins _)).pressBegins
  | .pressEnd, h => by
    obtain rfl := Host.Outcome.next.inj h
    split
    · exact .driven rfl _ (refl (s.setPins _)).congr
    · exact .carried (refl s)
  | .pressTimerExpiry, h => .answered (.carried (.ite (refl s).pressHeldOut (refl s))) h
  | .askWaitExpiry, h => .answered (.carried (.ite (refl s).askWaitOver (refl s))) h
  | .seriesGapExpiry, h => .answered (.carried (.ite (refl s).seriesGapOver (refl s))) h
  | .seriesWatchGapExpiry, h => .answered (.carried (.ite (refl s).watchGapOver (refl s))) h
  | .seriesPauseEnd, h =>
    .answered (.carried (.ite ((refl s).blocks (.placeRun _ (.refl s)) (.placeRun (.refl s) _)) (refl s))) h
  | .isolatedCooldownExpiry, h => .answered (.mayClear rfl (.ite (.inr (.rejoinStation s)) (.inl (refl s)))) h
  | .nightCountExpiry c, h =>
    .answered (.carried (.ite ((refl s).blocks (.workStep (.expireCount c (.refl s)))
      (.workStep (.expireCount (.refl s) c))) (refl s))) h
  | .run0SecondTick, h => .answered (.carried ((refl s).blocks (.refreshRun0 (.refl s)) (.refreshRun0 (.refl s)))) h
  | .claimAgeExpiry, h => .answered (.carried (.ite (refl s).claimAgeOver (refl s))) h
  | .keepTimerExpiry, h =>
    .answered (.carried (.ite ((refl s).blocks (.keepMark (.setClaim (.refl s))) (.keepMark (.setClaim (.refl s))))
      (refl s))) h
  | .lastHeardTick, h => by
    obtain rfl := Host.Outcome.next.inj h
    split
    · exact .carried (refl s)
    · exact .aged rfl ((refl _).blocks (.judgeWatch (.refl _)) (.judgeWatch (.refl _)))
  | .gatePatienceExpiry, h => .carried ((refl s).gatePatienceOver h)
  | .wakePulseEnd, h => .answered (.carried (refl s).congr) h
  | .goodLimitExpiry, h => .answered (.carried (.ite ((refl s).failAttempt _) (refl s))) h
  | .settleExpiry, h =>
    .answered (.carried (.ite ((refl s).blocks (.settleEnds (.refl s)) (.settleEnds (.refl s))) (refl s))) h
  | .contactTimerExpiry, h => .answered (.carried (.ite ((refl s).failAttempt _) (refl s))) h
  | .progressTimerExpiry, h => .answered (.carried (.ite ((refl s).failAttempt _) (refl s))) h
  | .shutdownTimerExpiry, h =>
    .answered (.carried (.ite (refl s).setSeq.finishDone (refl s))) h
  | .cooldownExpiry _, h => by
    obtain rfl := Host.Outcome.next.inj h
    split
    · exact .driven rfl _ (((refl (s.setPins _)).congr (t := State.setSeq (s.setPins _) _)).blocks
        (.cooldownEnds (.refl _)) (.cooldownEnds (.refl _)) (by simp [cooldownOver]))
    · exact .carried (refl s)

end Sys2Proof.Machine
end

