-- ==== Sys2Proof/Proofs/HandOver.lean ====
section
/-! PROOFS. What the delivery of a frame keeps (R14, R46), beside what it is there to write: O4, O6 and O9. -/

namespace Sys2Proof.Machine

variable {z s t : State} {n : Nat} {b : Body}

/-! ### The tables (R32, R35, R59, R61) -/

theorem TableRanges.carried (h : TableRanges s) (k : Carried s t) : TableRanges t where
  roster := k.replica ▸ h.roster
  ages := k.lastHeard ▸ h.ages
  ageLimit := k.lastHeard ▸ h.ageLimit
  buffer := by
    rcases k.catchUp with ⟨-, buffer⟩ | ⟨-, buffer⟩
    · exact buffer ▸ h.buffer
    · exact buffer ▸ Nat.zero_le _
  runs a ha := by
    rcases k.catchUp with ⟨adopted, -⟩ | ⟨adopted, -⟩
    · exact h.runs a (adopted ▸ ha)
    · rw [adopted] at ha; cases ha

/-- R32: another replica of forty entries. -/
theorem TableRanges.setReplica (h : TableRanges s) {x : Replica} (hx : x.roster.length = Config.stations) :
    TableRanges (s.setReplica x) := ⟨hx, h.ages, h.ageLimit, h.buffer, h.runs⟩

/-- R35: other ages, forty and within the limit. -/
theorem TableRanges.setLastHeard (h : TableRanges s) {x : List Nat} (hx : x.length = Config.stations)
    (limit : ∀ a ∈ x, a ≤ Config.maxHeardAge * 1000) : TableRanges (s.setLastHeard x) :=
  ⟨h.roster, hx, limit, h.buffer, h.runs⟩

/-- R35: an age set to 0 leaves the others. -/
theorem TableRanges.resetAge (h : TableRanges s) (n : Nat) : TableRanges (s.setLastHeard (resetAge s.lastHeard n)) := by
  refine h.setLastHeard ((resetAge_length _ _).trans h.ages) fun a ha => ?_
  cases n with
  | zero => exact h.ageLimit a ha
  | succ k =>
    rcases List.mem_or_eq_of_mem_set ha with ha | rfl
    · exact h.ageLimit a ha
    · exact Nat.zero_le _

/-! ### What the hand-over of a frame keeps -/

/-- R25, R176: the settings, the loader, the inputs and the ages are kept, no slot becomes SENDING, and the tables stay
within their limits. -/
structure Handed (z t : State) : Prop where
  lastHeard : t.lastHeard = z.lastHeard
  pins : t.pins = z.pins
  loader : t.loader = z.loader
  cfg : t.cfg = z.cfg
  sending : ∀ src, (t.slot src).isSending = true → (z.slot src).isSending = true
  tables : TableRanges z → TableRanges t

theorem Carried.handed (k : Carried s t) : Handed s t :=
  ⟨k.lastHeard, k.pins, k.loader, k.cfg, k.sending, fun h => h.carried k⟩

/-- R36: an application, with what it does in the Night Unit, the gate-patience timer and the Claim Engine. -/
theorem Carried.applyParts (own : Bool) (n : Nat) (b : Body) (age : Nat) (s : State) :
    Carried (s.setReplica (applyFrame s.replica n b).1) (applyParts own n b age s) :=
  (refl _).blocks (.engineNotice _ _ _ _ (.ite (.nightApplied _ _ (.refl _)) (.refl _)))
    (.engineNotice (.ite (.nightApplied (.refl _) _ _) (.refl _)) _ _ _ _)

/-- R46: a live application. -/
theorem Carried.applyLive (own : Bool) (n : Nat) (b : Body) (s : State) :
    Carried (s.setReplica (applyFrame s.replica n b).1) (applyLive own n b s) :=
  (refl _).blocks (.applyLive own n b s) ⟨fun src => (LineKept.applyLive (.refl s) own n b).inRange src,
    (LineKept.applyLive (.refl s) own n b).sending, (LineKept.applyLive (.refl s) own n b).pending,
    (LineKept.applyLive (.refl s) own n b).line, (LineKept.applyLive (.refl s) own n b).state⟩

namespace Handed

theorem refl (s : State) : Handed s s := (Carried.refl s).handed

theorem trans (h : Handed z s) (k : Handed s t) : Handed z t where
  lastHeard := k.lastHeard.trans h.lastHeard
  pins := k.pins.trans h.pins
  loader := k.loader.trans h.loader
  cfg := k.cfg.trans h.cfg
  sending src ht := h.sending src (k.sending src ht)
  tables hz := k.tables (h.tables hz)

theorem ite {c : Prop} [Decidable c] (hs : Handed z s) (ht : Handed z t) : Handed z (if c then s else t) := by
  split <;> assumption

/-- A write of the replica that keeps forty entries. -/
theorem setReplica {x : Replica} (hx : TableRanges s → x.roster.length = Config.stations) :
    Handed s (s.setReplica x) :=
  ⟨rfl, rfl, rfl, rfl, fun _ h => h, fun h => h.setReplica (hx h)⟩

theorem applyParts (own : Bool) (n : Nat) (b : Body) (age : Nat) (s : State) :
    Handed s (applyParts own n b age s) :=
  (setReplica fun h => (applyFrame_roster_length _ _ _).trans h.roster).trans (Carried.applyParts own n b age s).handed

theorem applyLive (own : Bool) (n : Nat) (b : Body) (s : State) : Handed s (applyLive own n b s) :=
  (setReplica fun h => (applyFrame_roster_length _ _ _).trans h.roster).trans (Carried.applyLive own n b s).handed

/-! ### Joining and collecting (R49, R58 to R62) -/

/-- R58: a series is adopted with no run stored and nothing buffered. -/
theorem adopt (sender : Nat) (asker : Byte) (payload : List Byte) (s : State) :
    Handed s (adopt sender asker payload s) :=
  ⟨rfl, rfl, rfl, rfl, fun _ h => h, fun h => ⟨h.roster, h.ages, h.ageLimit, Nat.zero_le _, by
    rintro a ha
    obtain rfl := Option.some.inj ha
    rfl⟩⟩

/-- R59: a frame is buffered where there is room for it. -/
theorem bufferFrame (a : Adopted) (own : Bool) (sender : Nat) (b : Body) (s : State) :
    Handed s (bufferFrame a own sender b s) := by
  unfold Machine.bufferFrame
  split
  case isTrue room =>
    refine ⟨rfl, rfl, rfl, rfl, fun _ h => h, fun h => ⟨h.roster, h.ages, h.ageLimit, ?_, h.runs⟩⟩
    rw [setMember_member, List.length_append]
    exact room
  case isFalse => exact (Carried.refl s).abandon.handed

/-- R61: a run is stored and the next one expected. -/
theorem storeRun {a : Adopted} (adopted : s.member.adopted = some a) (payload : List Byte) :
    Handed s (storeRun a payload s) := by
  refine ⟨rfl, rfl, rfl, rfl, fun _ h => h, fun h => ⟨h.roster, h.ages, h.ageLimit, h.buffer, ?_⟩⟩
  rintro a' ha
  obtain rfl := Option.some.inj ha
  rw [List.length_append]
  exact congrArg (· + 1) (h.runs a adopted)

theorem commonChanges_length (answerer n : Nat) (r : Replica) :
    (commonChanges answerer n r).roster.length = r.roster.length := by
  induction n generalizing r with
  | zero => rfl
  | succ n ih => exact (ih _).trans (commonChange_roster_length r answerer)

theorem runsChange (answerer n : Nat) (s : State) : Handed s (runsChange answerer n s) :=
  setReplica fun h => (commonChanges_length answerer n s.replica).trans h.roster

theorem replay (answerer : Nat) (buffer : List BufferEntry) :
    ∀ (done : Nat) (s : State), Handed s (replay answerer done buffer s) := by
  induction buffer with
  | nil => exact fun done s => runsChange answerer (21 - done) s
  | cons e rest ih =>
    exact fun done s => ((runsChange answerer (e.lastRun - done) s).trans (applyParts _ _ _ _ _)).trans (ih _ _)

theorem readRoster_length (free k : Nat) (runs : List (List Byte)) :
    (readRoster free k runs).length = 2 * runs.length := by
  induction runs generalizing k with
  | nil => rfl
  | cons run rest ih => simp only [readRoster, List.length_cons, ih]; omega

/-- R62: an install writes the forty entries of runs 2 to 21. -/
theorem install {a : Adopted} (whole : TableRanges s → a.runs.length = 21) : Handed s (install a s) := by
  have forty (h : TableRanges s) : (snapshotReplica s.freeCount a.run0 a.runs).roster.length = Config.stations := by
    rw [snapshotReplica, readRoster_length, List.length_drop, whole h]
    rfl
  have counted : Handed (s.setReplica (snapshotReplica s.freeCount a.run0 a.runs)) (countsFromRun0 a.run0
      ((s.setReplica (snapshotReplica s.freeCount a.run0 a.runs)).setFreeCount (s.freeCount + 1))) :=
    ⟨rfl, rfl, rfl, rfl, fun _ h => h, fun h => ⟨h.roster, h.ages, h.ageLimit, h.buffer, h.runs⟩⟩
  have replayed := ((setReplica forty).trans counted).trans (replay a.answerer s.member.buffer 0 _)
  exact replayed.trans ((Carried.refl _).congr (t := recordInstall a.answerer a.asker _)).enterSync.handed

theorem collectRun {a : Adopted} (adopted : s.member.adopted = some a) (sender k : Nat) (payload : List Byte) :
    Handed s (collectRun a sender k payload s) := by
  unfold Machine.collectRun
  split
  case isFalse => exact (Carried.refl s).abandon.handed
  case isTrue expected =>
    obtain ⟨-, next, -⟩ := expected
    split
    case isTrue last =>
      refine install fun h => ?_
      have stored := h.runs a adopted
      rw [List.length_append, List.length_singleton, stored, ← next, last]
    case isFalse => exact storeRun adopted payload

theorem joiningFrame (own : Bool) (sender : Nat) (b : Body) (s : State) : Handed s (joiningFrame own sender b s) := by
  have noted : Handed s (s.setMember { s.member with onlyAsks := false }) := (Carried.refl s).congr.handed
  have late : Handed s (lateFrame sender b s) := by
    unfold lateFrame
    split
    · exact .ite (Carried.refl s).congr.handed (refl s)
    · exact refl s
  unfold Machine.joiningFrame
  refine .ite (refl s) (.ite late ?_)
  split
  · exact .ite (adopt _ _ _ s) noted
  · exact refl s
  · exact noted

theorem collectingFrame (own : Bool) (sender : Nat) (b : Body) (s : State) :
    Handed s (collectingFrame own sender b s) := by
  unfold Machine.collectingFrame
  split
  case h_1 adopted => exact .ite (adopt _ _ _ s) (collectRun adopted _ _ _)
  case h_2 => exact .ite (adopt _ _ _ s) (Carried.refl s).abandon.handed
  case h_3 => exact bufferFrame _ _ _ _ s
  case h_4 => exact refl s

/-- R46: the hand-over, by the membership state. -/
theorem handOver (own : Bool) (sender : Nat) (b : Body) (s : State) : Handed s (handOver own sender b s) := by
  unfold Machine.handOver
  split
  case h_5 => exact joiningFrame own sender b s
  case h_6 => exact collectingFrame own sender b s
  case h_7 => exact applyLive own sender b s
  all_goals exact refl s

end Handed

end Sys2Proof.Machine
end

