-- ==== Sys2Proof/Proofs/Blocks.lean ====
section
/-! PROOFS. Which commands write which blocks (R25, R27, R35, R176): O4, and the invariants of the tables and the pools
that follow: O6 and O9. -/

namespace Sys2Proof.Machine

variable {s t : State} {c : Instr}

/-! ### The end of a verdict slot that reads recessive (R14) -/

/-- R11: the sender of a whole frame is a station of the row. -/
theorem receive_sender {g : List Group} {n : Nat} {b : Body} (h : receive g = .whole n b) :
    1 ≤ n ∧ n ≤ Config.stations := by
  unfold receive at h
  split at h
  case h_2 => cases h
  case h_1 c0 c1 k l rest =>
    dsimp only at h
    split_ifs at h
    split at h
    case h_2 => cases h
    case h_1 k1 k0 _ =>
      split_ifs at h with faulty
      obtain ⟨rfl, -⟩ := Reception.whole.inj h
      simp only [frameMalformed, Bool.or_eq_true, beq_iff_eq, decide_eq_true_eq, not_or] at faulty
      obtain ⟨-, ⟨⟨⟨some_number, on_row⟩, -⟩, -⟩, -⟩ := faulty
      exact ⟨Nat.one_le_iff_ne_zero.mpr some_number, Nat.le_of_not_lt on_row⟩

/-- R14: what a frame's end as delivered can do: nothing, what a faulty frame's end does, or a hand-over between the
counting and the emptying of the own slot. -/
inductive Delivery (s t : State) : Prop where
  | mayClear (k : MayClear s t)
  | handed (own : Bool) (n : Nat) (b : Body) (sender : n = s.cfg.station ∨ (1 ≤ n ∧ n ≤ Config.stations))
      (k : Carried (handOver own n b (countDelivery own n s)) t)

theorem frameEndsDelivered_cases (f : LineFrame) (s : State) : Delivery s (frameEndsDelivered f s) := by
  have same : Delivery s s := .mayClear (.inl (.refl s))
  unfold frameEndsDelivered
  split
  · split
    · exact same
    · split
      · split
        · exact .handed true s.cfg.station _ (.inl rfl) ((Carried.refl _).ownSlotEmptied _ _ _)
        · exact same
      · exact same
      · exact same
  · split
    · split
      case h_1 n b whole => exact .handed false n b (.inr (receive_sender whole)) (.refl _)
      · exact .mayClear (.heardFaulty s)
      · exact .mayClear (.heardFaulty s)
      · exact same
    · exact same

/-- R25, R176: what no frame's end as delivered writes. -/
theorem Delivery.frame (d : Delivery s t) : t.pins = s.pins ∧ t.loader = s.loader ∧ t.cfg = s.cfg
    ∧ ∀ src, (t.slot src).isSending = true → (s.slot src).isSending = true := by
  cases d with
  | mayClear k =>
    rcases k with k | ⟨k, -⟩
    · exact ⟨k.pins, k.loader, k.cfg, k.sending⟩
    · exact ⟨k.pins, k.loader, k.cfg, k.sending⟩
  | handed own n b sender k =>
    have handed := ((Carried.countDelivery own n s).handed.trans (.handOver own n b _)).trans k.handed
    exact ⟨handed.pins, handed.loader, handed.cfg, handed.sending⟩

/-! ### The start of an attempt (R4, R8) -/

/-- R4, R8: an attempt that starts makes one slot SENDING, of a source that may contend. -/
theorem startAttempt_cases (s : State) : startAttempt s = s ∨ ∃ src f,
    mayContend s.member.state src = true ∧ startAttempt s = startSending src f (currentRun0 s) := by
  unfold startAttempt
  split
  case isFalse => exact .inl rfl
  case isTrue =>
    dsimp only
    split
    case h_2 => exact .inl rfl
    case h_1 src f offered =>
      have best := offer_best (currentRun0 s)
      rw [offered] at best
      obtain ⟨-, candidate, -⟩ := best
      obtain ⟨may, -⟩ := candidate_eq_some.mp candidate
      exact .inr ⟨src, f, currentRun0_member s ▸ may, rfl⟩

theorem startAttempt_member (s : State) : (startAttempt s).member = s.member := by
  rcases startAttempt_cases s with same | ⟨src, f, -, started⟩
  · rw [same]
  · rw [started, startSending_member, currentRun0_member]

/-- R20: every other slot is SENDING only if it was. -/
theorem startSending_sending {src o : Source} {f : Word16} (h : ((startSending src f s).slot o).isSending = true)
    (other : o ≠ src) : (s.slot o).isSending = true := by
  unfold startSending at h
  split at h
  · rwa [slot_setSlot_ne s _ other] at h
  · exact h
  · exact h

theorem startAttempt_sending {src : Source} (h : ((startAttempt s).slot src).isSending = true) :
    (s.slot src).isSending = true ∨ mayContend s.member.state src = true := by
  rcases startAttempt_cases s with same | ⟨b, f, may, started⟩
  · exact .inl (same ▸ h)
  · by_cases offered : src = b
    · exact .inr (offered ▸ may)
    · exact .inl ((LineKept.currentRun0 (.refl s)).sending src (startSending_sending (started ▸ h) offered))

/-! ### The frame of every command -/

/-- Settles O4: by what each command can do. -/
theorem blocksWrittenOnlyByTheirCauses : Obligations.BlocksWrittenOnlyByTheirCauses := by
  intro c s t h
  cases exec_effect h with
  | carried k =>
    exact ⟨fun _ => k.replica, fun _ => k.lastHeard, fun _ => ⟨k.cfg, k.loader⟩, fun _ => k.pins,
      fun _ => k.freeCount, fun src hs => .inl (k.sending src hs)⟩
  | cleared may cleared =>
    have k := cleared.carried
    exact ⟨fun never => absurd may (Bool.eq_false_iff.mp never), fun _ => k.lastHeard, fun _ => ⟨k.cfg, k.loader⟩,
      fun _ => k.pins, fun _ => k.freeCount, fun src hs => .inl (k.sending src hs)⟩
  | aged may k =>
    exact ⟨fun _ => k.replica, fun never => absurd may (Bool.eq_false_iff.mp never), fun _ => ⟨k.cfg, k.loader⟩,
      fun _ => k.pins, fun _ => k.freeCount, fun src hs => .inl (k.sending src hs)⟩
  | configured may l x k out =>
    exact ⟨fun _ => k.replica, fun _ => k.lastHeard, fun never => absurd may (Bool.eq_false_iff.mp never),
      fun _ => k.pins, fun _ => k.freeCount, fun src hs => .inl (k.sending src hs)⟩
  | driven may x k =>
    exact ⟨fun _ => k.replica, fun _ => k.lastHeard, fun _ => ⟨k.cfg, k.loader⟩,
      fun never => absurd may (Bool.eq_false_iff.mp never), fun _ => k.freeCount,
      fun src hs => .inl (k.sending src hs)⟩
  | cold powerGood supplyReq panelButton hc ht =>
    subst hc ht
    exact ⟨nofun, nofun, nofun, nofun, fun _ => rfl, fun src hs => by cases src <;> cases hs⟩
  | started hc ht =>
    subst hc ht
    have k : Kept s (startAttempt s) := .startAttempt (.refl s)
    exact ⟨fun _ => k.replica, fun _ => k.lastHeard, fun _ => ⟨k.cfg, k.loader⟩, fun _ => k.pins,
      fun _ => k.freeCount, fun src hs => (startAttempt_sending hs).imp_right fun may => ⟨rfl, may⟩⟩
  | delivered f hc ht =>
    subst hc ht
    obtain ⟨pins, loader, cfg, sending⟩ := (frameEndsDelivered_cases f s).frame
    exact ⟨nofun, nofun, fun _ => ⟨cfg, loader⟩, fun _ => pins, fun other => absurd rfl (other f),
      fun src hs => .inl (sending src hs)⟩

/-! ### The tables -/

theorem TableRanges.mayClear (h : TableRanges s) (k : MayClear s t) : TableRanges t := by
  rcases k with k | ⟨k, -⟩
  · exact h.carried k
  · exact (h.setReplica List.length_replicate).carried k

theorem TableRanges.delivery (h : TableRanges s) (d : Delivery s t) : TableRanges t := by
  cases d with
  | mayClear k => exact h.mayClear k
  | handed own n b sender k =>
    have counted := (h.resetAge n).carried (Carried.countDelivery own n s)
    exact ((Handed.handOver own n b _).tables counted).carried k

/-- R32, R35, R59, R61: a station just powered. -/
theorem TableRanges.cold (pins : Pins) (pending : List Instr) : TableRanges (State.cold pins pending) where
  roster := List.length_replicate
  ages := List.length_replicate
  ageLimit a ha := by rw [List.eq_of_mem_replicate ha]; exact Nat.zero_le _
  buffer := Nat.zero_le _
  runs a ha := by cases ha

theorem TableRanges.exec (h : TableRanges s) (hx : exec c s = .next t) : TableRanges t := by
  cases exec_effect hx with
  | carried k => exact h.carried k
  | cleared may k => exact h.mayClear (.inr k)
  | aged may k => exact (h.setLastHeard ((passSecond_length _).trans h.ages) fun a ha => ageBy_le ha).carried k
  | configured may l x k out =>
    have same : TableRanges ((s.setLoader l).setCfg x) := ⟨h.roster, h.ages, h.ageLimit, h.buffer, h.runs⟩
    exact same.carried k
  | driven may x k =>
    have same : TableRanges (s.setPins x) := ⟨h.roster, h.ages, h.ageLimit, h.buffer, h.runs⟩
    exact same.carried k
  | cold powerGood supplyReq panelButton hc ht =>
    have cold := TableRanges.cold ⟨supplyReq, powerGood, panelButton⟩ s.pending
    subst ht
    exact ⟨cold.roster, cold.ages, cold.ageLimit, cold.buffer, cold.runs⟩
  | started hc ht =>
    subst ht
    have k : Kept s (startAttempt s) := .startAttempt (.refl s)
    have m := startAttempt_member s
    exact ⟨k.replica ▸ h.roster, k.lastHeard ▸ h.ages, k.lastHeard ▸ h.ageLimit, m ▸ h.buffer, m ▸ h.runs⟩
  | delivered f hc ht => exact ht ▸ h.delivery (frameEndsDelivered_cases f s)

/-- R35, R63: an idle millisecond. -/
theorem TableRanges.tick (h : TableRanges s) : TableRanges (tick s) where
  roster := h.roster
  ages := by
    show (if s.loader.state = .reading then s.lastHeard else ageMs s.lastHeard).length = Config.stations
    split
    · exact h.ages
    · exact (ageMs_length _).trans h.ages
  ageLimit a ha := by
    replace ha : a ∈ if s.loader.state = .reading then s.lastHeard else ageMs s.lastHeard := ha
    unfold ageMs at ha
    split_ifs at ha
    · exact h.ageLimit a ha
    · exact h.ageLimit a ha
    · exact ageBy_le ha
  buffer := (List.length_map _).trans_le h.buffer
  runs := h.runs

/-- Settles O6: every command and every idle millisecond keeps the tables within their limits. -/
theorem tableRangesKept : Obligations.TableRangesKept := by
  intro s t h hx
  unfold step at hx
  split at hx
  · exact Host.Outcome.next.inj hx ▸ h.tick
  case h_2 rest _ =>
    have same : TableRanges (s.setPending rest) := ⟨h.roster, h.ages, h.ageLimit, h.buffer, h.runs⟩
    exact same.exec hx

/-! ### The pools (R30, R102) -/

/-- R30, R102: the laws stay where neither the replica nor the settings are written. -/
theorem PoolLaws.of_eq (laws : PoolLaws s) (sync : s.InSync) (replica : t.replica = s.replica)
    (cfg : t.cfg = s.cfg) : PoolLaws t := fun _ => by
  rw [replica, cfg]
  exact laws sync

/-- R30, R36, R102: a frame delivered to an IN_SYNC station is applied, and every application keeps the laws. -/
theorem PoolLaws.delivery (laws : PoolLaws s) (sync : s.InSync) (d : Delivery s t) (stays : t.InSync) :
    PoolLaws t := by
  cases d with
  | mayClear k =>
    rcases k with k | ⟨-, joining⟩
    · exact laws.of_eq sync k.replica k.cfg
    · rw [State.InSync, joining] at stays
      cases stays
  | handed own n b sender k =>
    obtain ⟨station, inUse, reservations⟩ := laws sync
    have counted := Carried.countDelivery own n s
    have counted_sync : (countDelivery own n s).InSync := by rw [State.InSync, countDelivery_member]; exact sync
    rw [handOver_inSync counted_sync] at k
    have applied := (Carried.applyLive own n b (countDelivery own n s)).trans k
    have replica : t.replica = (applyFrame s.replica n b).1 :=
      applied.replica.trans (congrArg (fun r => (applyFrame r n b).1) counted.replica)
    have cfg : t.cfg = s.cfg := applied.cfg.trans counted.cfg
    obtain ⟨h1, h2⟩ : 1 ≤ n ∧ n ≤ Config.stations := sender.elim (fun own => own ▸ station) id
    intro _
    rw [replica, cfg]
    exact ⟨station, applierKeepsPoolLaws s.replica n b h1 h2 inUse reservations⟩

theorem PoolLaws.exec (laws : PoolLaws s) (sync : s.InSync) (stays : t.InSync) (hx : exec c s = .next t) :
    PoolLaws t := by
  cases exec_effect hx with
  | carried k => exact laws.of_eq sync k.replica k.cfg
  | cleared may k => exact laws.delivery sync (.mayClear (.inr k)) stays
  | aged may k => exact laws.of_eq sync k.replica k.cfg
  | configured may l x k out => exact absurd stays out
  | driven may x k => exact laws.of_eq sync k.replica k.cfg
  | cold powerGood supplyReq panelButton hc ht => subst ht; cases stays
  | started hc ht =>
    have k : Kept s (startAttempt s) := .startAttempt (.refl s)
    exact ht ▸ laws.of_eq sync k.replica k.cfg
  | delivered f hc ht => subst ht; exact laws.delivery sync (frameEndsDelivered_cases f s) stays

/-- Settles O9: a station that stays IN_SYNC has its replica written by applications alone. -/
theorem poolLawsKeptInSync : Obligations.PoolLawsKeptInSync := by
  intro s t sync stays laws hx
  unfold step at hx
  split at hx
  · exact Host.Outcome.next.inj hx ▸ laws.of_eq sync rfl rfl
  case h_2 rest _ => exact PoolLaws.exec (s := s.setPending rest) laws sync stays hx

end Sys2Proof.Machine
end

