-- ==== Sys2Proof/Proofs/SyncEntry.lean ====
section
/-! PROOFS. What the blocks told of the entry to IN_SYNC (R64) leave alone of the Night Unit and of the silence watch:
one lemma per operation, tagged for simp; and what the entry leaves. -/

namespace Sys2Proof.Machine

/-- R64: the Night Unit, and whether the silence watch runs (R109). -/
def State.nightAndWatch (s : State) : NightUnit × Bool := (s.night, s.claim.watching)

theorem nightAndWatch_eq_iff {s : State} {u : NightUnit} {watching : Bool} :
    s.nightAndWatch = (u, watching) ↔ s.night = u ∧ s.claim.watching = watching := Prod.mk_inj

theorem nightAndWatch_night {s t : State} (h : t.nightAndWatch = s.nightAndWatch) : t.night = s.night :=
  (nightAndWatch_eq_iff.mp h).1

/-! ### Writing one block -/

@[simp] theorem ite_nightAndWatch (c : Prop) [Decidable c] (s t : State) :
    (if c then s else t).nightAndWatch = if c then s.nightAndWatch else t.nightAndWatch :=
  apply_ite State.nightAndWatch c s t

@[simp] theorem setSlot_nightAndWatch (s : State) (src : Source) (x : Slot) :
    (s.setSlot src x).nightAndWatch = s.nightAndWatch := rfl

@[simp] theorem setRli_nightAndWatch (s : State) (x : Rli) : (s.setRli x).nightAndWatch = s.nightAndWatch := rfl

@[simp] theorem setGate_nightAndWatch (s : State) (x : GateMark) : (s.setGate x).nightAndWatch = s.nightAndWatch := rfl

@[simp] theorem setSeq_nightAndWatch (s : State) (x : Sequencer) : (s.setSeq x).nightAndWatch = s.nightAndWatch := rfl

@[simp] theorem setLink_nightAndWatch (s : State) (x : LinkPort) : (s.setLink x).nightAndWatch = s.nightAndWatch := rfl

/-- The Claim Engine may be written in all but its watch. -/
@[simp] theorem setClaim_nightAndWatch (s : State) {x : ClaimEngine} (h : x.watching = s.claim.watching) :
    (s.setClaim x).nightAndWatch = s.nightAndWatch := congrArg (Prod.mk s.night) h

/-- R109: the watch starts. -/
theorem watchStarted_nightAndWatch (s : State) :
    (s.setClaim { s.claim with watching := true }).nightAndWatch = (s.night, true) := rfl

@[simp] theorem withdraw_nightAndWatch (src : Source) (s : State) :
    (withdraw src s).nightAndWatch = s.nightAndWatch := by
  unfold withdraw
  split <;> rfl

@[simp] theorem raise_nightAndWatch (e : Event) (s : State) : (raise e s).nightAndWatch = s.nightAndWatch := rfl

/-! ### Marks and the gate -/

@[simp] theorem putMark_nightAndWatch (h : HeldMark) (s : State) : (putMark h s).nightAndWatch = s.nightAndWatch := by
  unfold putMark
  split <;> rfl

@[simp] theorem keepMark_nightAndWatch (s : State) : (keepMark s).nightAndWatch = s.nightAndWatch := by simp [keepMark]

@[simp] theorem stateMark_nightAndWatch (s : State) : (stateMark s).nightAndWatch = s.nightAndWatch := by
  simp [stateMark]

@[simp] theorem milestone_nightAndWatch (k : MarkKind) (s : State) :
    (milestone k s).nightAndWatch = s.nightAndWatch := by simp [milestone]

@[simp] theorem emittedFor_nightAndWatch (night : Word16) (s : State) :
    (emittedFor night s).nightAndWatch = s.nightAndWatch := by simp [emittedFor]

@[simp] theorem gateReady_nightAndWatch (night : Word16) (s : State) :
    (gateReady night s).nightAndWatch = s.nightAndWatch := by simp [gateReady]

@[simp] theorem startPatience_nightAndWatch (s : State) : (startPatience s).nightAndWatch = s.nightAndWatch := by
  simp [startPatience]

@[simp] theorem patienceAtSync_nightAndWatch (s : State) : (patienceAtSync s).nightAndWatch = s.nightAndWatch := by
  simp [patienceAtSync]

/-! ### The Claim Engine -/

@[simp] theorem keepSync_nightAndWatch (s : State) : (keepSync s).nightAndWatch = s.nightAndWatch := by simp [keepSync]

@[simp] theorem recordHold_nightAndWatch (p : Pool) (units : Nat) (s : State) :
    (recordHold p units s).nightAndWatch = s.nightAndWatch := by simp [recordHold]

@[simp] theorem recordReservation_nightAndWatch (r : Option Pool) (s : State) :
    (recordReservation r s).nightAndWatch = s.nightAndWatch := by simp [recordReservation]

@[simp] theorem setRequestState_nightAndWatch (st : RequestState) (s : State) :
    (setRequestState st s).nightAndWatch = s.nightAndWatch := rfl

@[simp] theorem stopClaimAge_nightAndWatch (s : State) : (stopClaimAge s).nightAndWatch = s.nightAndWatch := rfl

@[simp] theorem placeClaim_nightAndWatch (r : Request) (s : State) :
    (placeClaim r s).nightAndWatch = s.nightAndWatch := by
  unfold placeClaim
  split <;> rfl

@[simp] theorem placePark_nightAndWatch (r : Request) (s : State) :
    (placePark r s).nightAndWatch = s.nightAndWatch := by
  unfold placePark
  split <;> rfl

@[simp] theorem setGranted_nightAndWatch (s : State) : (setGranted s).nightAndWatch = s.nightAndWatch := rfl

@[simp] theorem grantRequest_nightAndWatch (p : Pool) (units : Nat) (s : State) :
    (grantRequest p units s).nightAndWatch = s.nightAndWatch := by simp [grantRequest]

@[simp] theorem reread_nightAndWatch (s : State) : (reread s).1.nightAndWatch = s.nightAndWatch := by
  unfold reread
  split
  · rfl
  · split
    · rfl
    · split <;> simp

@[simp] theorem wantUnpark_nightAndWatch (p : Pool) (s : State) :
    (wantUnpark p s).nightAndWatch = s.nightAndWatch := rfl

@[simp] theorem tryUnpark_nightAndWatch (s : State) : (tryUnpark s).nightAndWatch = s.nightAndWatch := by
  unfold tryUnpark
  split
  · rfl
  · dsimp only
    split <;> rfl

@[simp] theorem dropRequestFrame_nightAndWatch (s : State) :
    (dropRequestFrame s).nightAndWatch = s.nightAndWatch := by
  unfold dropRequestFrame
  split
  · split <;> simp
  · rfl

@[simp] theorem cancelRequest_nightAndWatch (s : State) : (cancelRequest s).nightAndWatch = s.nightAndWatch := by
  unfold cancelRequest
  split <;> simp

@[simp] theorem cancelAll_nightAndWatch (s : State) : (cancelAll s).nightAndWatch = s.nightAndWatch := by
  simp [cancelAll]

@[simp] theorem cancelFor_nightAndWatch (p : Pool) (s : State) : (cancelFor p s).nightAndWatch = s.nightAndWatch := by
  unfold cancelFor
  cases s.claim.deferred with
  | none => dsimp only; split <;> simp
  | some d => dsimp only; split <;> simp

@[simp] theorem makeRequest_nightAndWatch (p : Pool) (units : Nat) (s : State) :
    (makeRequest p units s).1.nightAndWatch = s.nightAndWatch := by
  unfold makeRequest
  split <;> simp

@[simp] theorem startRestore_nightAndWatch (s : State) : (startRestore s).nightAndWatch = s.nightAndWatch := by
  simp [startRestore]

@[simp] theorem placeRelease_nightAndWatch (u : PerPool Nat) (s : State) :
    (placeRelease u s).nightAndWatch = s.nightAndWatch := by
  unfold placeRelease
  split
  · rfl
  · split <;> rfl

@[simp] theorem owePools_nightAndWatch (x : PerPool Bool) (s : State) :
    (owePools x s).nightAndWatch = s.nightAndWatch := rfl

@[simp] theorem releaseAsk_nightAndWatch (x : PerPool Bool) (s : State) :
    (releaseAsk x s).nightAndWatch = s.nightAndWatch := by simp [releaseAsk]

@[simp] theorem judgeWatch_nightAndWatch (s : State) : (judgeWatch s).nightAndWatch = s.nightAndWatch := by
  unfold judgeWatch
  split
  · rfl
  · split <;> simp

/-! ### The sequencer -/

@[simp] theorem toState_nightAndWatch (st : SeqState) (s : State) :
    (toState st s).nightAndWatch = s.nightAndWatch := rfl

@[simp] theorem enterState_nightAndWatch (st : SeqState) (s : State) :
    (enterState st s).nightAndWatch = s.nightAndWatch := by simp [enterState]

@[simp] theorem enterWith_nightAndWatch (k : MarkKind) (st : SeqState) (s : State) :
    (enterWith k st s).nightAndWatch = s.nightAndWatch := by simp [enterWith]

@[simp] theorem setOutcome_nightAndWatch (o : NightOutcome) (skip : Option SkipReason) (s : State) :
    (setOutcome o skip s).nightAndWatch = s.nightAndWatch := by simp [setOutcome]

@[simp] theorem setLate_nightAndWatch (s : State) : (setLate s).nightAndWatch = s.nightAndWatch := rfl

@[simp] theorem setFinish_nightAndWatch (f : FinishOutcome) (s : State) :
    (setFinish f s).nightAndWatch = s.nightAndWatch := rfl

@[simp] theorem wakeStart_nightAndWatch (s : State) : (wakeStart s).nightAndWatch = s.nightAndWatch := by
  simp [wakeStart]

@[simp] theorem wakeTest_nightAndWatch (s : State) : (wakeTest s).nightAndWatch = s.nightAndWatch := by simp [wakeTest]

@[simp] theorem requestSurge_nightAndWatch (s : State) : (requestSurge s).nightAndWatch = s.nightAndWatch := by
  simp [requestSurge]

@[simp] theorem loadGranted_nightAndWatch (s : State) : (loadGranted s).nightAndWatch = s.nightAndWatch := by
  simp [loadGranted]

@[simp] theorem requestLoad_nightAndWatch (s : State) : (requestLoad s).nightAndWatch = s.nightAndWatch := by
  simp [requestLoad]

@[simp] theorem feedGranted_nightAndWatch (s : State) : (feedGranted s).nightAndWatch = s.nightAndWatch := by
  simp [feedGranted]

@[simp] theorem requestFeed_nightAndWatch (s : State) : (requestFeed s).nightAndWatch = s.nightAndWatch := by
  simp [requestFeed]

@[simp] theorem toldGranted_nightAndWatch (p : Pool) (s : State) :
    (toldGranted p s).nightAndWatch = s.nightAndWatch := by
  unfold toldGranted
  split <;> simp

@[simp] theorem remakeDeferred_nightAndWatch (s : State) : (remakeDeferred s).nightAndWatch = s.nightAndWatch := by
  unfold remakeDeferred
  split <;> simp

@[simp] theorem tellGrant_nightAndWatch (s : State) : (tellGrant s).nightAndWatch = s.nightAndWatch := by
  unfold tellGrant
  split <;> simp

@[simp] theorem rereadTold_nightAndWatch (s : State) : (rereadTold s).nightAndWatch = s.nightAndWatch := by
  simp [rereadTold]

@[simp] theorem claimingStart_nightAndWatch (s : State) : (claimingStart s).nightAndWatch = s.nightAndWatch := by
  simp [claimingStart]

@[simp] theorem enterClaiming_nightAndWatch (s : State) : (enterClaiming s).nightAndWatch = s.nightAndWatch := by
  simp [enterClaiming]

@[simp] theorem noteOff_nightAndWatch (s : State) : (noteOff s).nightAndWatch = s.nightAndWatch := by simp [noteOff]

@[simp] theorem evaluateGate_nightAndWatch (s : State) : (evaluateGate s).nightAndWatch = s.nightAndWatch := by
  simp [evaluateGate]

@[simp] theorem readGate_nightAndWatch (s : State) : (readGate s).nightAndWatch = s.nightAndWatch := by simp [readGate]

@[simp] theorem enterGated_nightAndWatch (s : State) : (enterGated s).nightAndWatch = s.nightAndWatch := by
  simp [enterGated]

@[simp] theorem takeUp_nightAndWatch (s : State) : (takeUp s).nightAndWatch = s.nightAndWatch := by simp [takeUp]

@[simp] theorem takeUpSkipped_nightAndWatch (reason : SkipReason) (s : State) :
    (takeUpSkipped reason s).nightAndWatch = s.nightAndWatch := by simp [takeUpSkipped]

@[simp] theorem takeUpLocal_nightAndWatch (s : State) : (takeUpLocal s).nightAndWatch = s.nightAndWatch := by
  simp [takeUpLocal]

@[simp] theorem takeUpRunning_nightAndWatch (s : State) : (takeUpRunning s).nightAndWatch = s.nightAndWatch := by
  simp [takeUpRunning]

@[simp] theorem lookNewer_nightAndWatch (s : State) : (lookNewer s).nightAndWatch = s.nightAndWatch := by
  simp [lookNewer]

@[simp] theorem finishDone_nightAndWatch (s : State) : (finishDone s).nightAndWatch = s.nightAndWatch := by
  simp [finishDone]

@[simp] theorem finishingActs_nightAndWatch (s : State) : (finishingActs s).nightAndWatch = s.nightAndWatch := by
  simp [finishingActs]

@[simp] theorem enterFinishing_nightAndWatch (f : FinishOutcome) (s : State) :
    (enterFinishing f s).nightAndWatch = s.nightAndWatch := by simp [enterFinishing]

@[simp] theorem skipNight_nightAndWatch (reason : SkipReason) (after : NightOutcome) (s : State) :
    (skipNight reason after s).nightAndWatch = s.nightAndWatch := by simp [skipNight]

@[simp] theorem gatedStanding_nightAndWatch (s : State) : (gatedStanding s).nightAndWatch = s.nightAndWatch := by
  unfold gatedStanding
  split <;> simp

@[simp] theorem claimingStanding_nightAndWatch (s : State) :
    (claimingStanding s).nightAndWatch = s.nightAndWatch := by
  unfold claimingStanding
  split <;> simp

@[simp] theorem bootingStanding_nightAndWatch (s : State) :
    (bootingStanding s).nightAndWatch = s.nightAndWatch := by
  unfold bootingStanding
  split <;> simp

@[simp] theorem imagingStanding_nightAndWatch (s : State) :
    (imagingStanding s).nightAndWatch = s.nightAndWatch := by
  unfold imagingStanding
  split <;> rfl

@[simp] theorem lateStanding_nightAndWatch (s : State) : (lateStanding s).nightAndWatch = s.nightAndWatch := by
  unfold lateStanding
  split <;> rfl

@[simp] theorem standingReaction_nightAndWatch (s : State) :
    (standingReaction s).nightAndWatch = s.nightAndWatch := by
  unfold standingReaction
  split <;> simp

@[simp] theorem workStanding_nightAndWatch (s : State) : (workStanding s).nightAndWatch = s.nightAndWatch := by
  simp [workStanding]

@[simp] theorem noteNewer_nightAndWatch (s : State) : (noteNewer s).nightAndWatch = s.nightAndWatch := by
  simp [noteNewer]

@[simp] theorem busyNotice_nightAndWatch (s : State) : (busyNotice s).nightAndWatch = s.nightAndWatch := by
  simp [busyNotice]

@[simp] theorem toldLost_nightAndWatch (lost : PerPool Bool) (s : State) :
    (toldLost lost s).nightAndWatch = s.nightAndWatch := by
  unfold toldLost
  split <;> simp

@[simp] theorem reviewIdle_nightAndWatch (s : State) : (reviewIdle s).nightAndWatch = s.nightAndWatch := by
  simp [reviewIdle]

@[simp] theorem review_nightAndWatch (s : State) : (review s).nightAndWatch = s.nightAndWatch := by simp [review]

/-! ### The reconciliation (R113, R114) -/

@[simp] theorem takeRecord_nightAndWatch (s : State) : (takeRecord s).nightAndWatch = s.nightAndWatch := by
  simp [takeRecord]

@[simp] theorem takeReservation_nightAndWatch (s : State) : (takeReservation s).nightAndWatch = s.nightAndWatch := by
  simp [takeReservation]

@[simp] theorem unparkUnusable_nightAndWatch (s : State) : (unparkUnusable s).nightAndWatch = s.nightAndWatch := by
  simp [unparkUnusable]

@[simp] theorem poolsFound_nightAndWatch (found : PerPool Bool) (s : State) :
    (poolsFound found s).nightAndWatch = s.nightAndWatch := by
  unfold poolsFound
  dsimp only
  split <;> simp

@[simp] theorem reconcile_nightAndWatch (s : State) : (reconcile s).nightAndWatch = s.nightAndWatch := by
  simp [reconcile]

@[simp] theorem settleOwed_nightAndWatch (s : State) : (settleOwed s).nightAndWatch = s.nightAndWatch := by
  simp [settleOwed]

/-! ### The entry to IN_SYNC (R64) -/

@[simp] theorem workStep_nightAndWatch (s : State) : (workStep s).nightAndWatch = s.nightAndWatch := by
  unfold workStep
  split
  · rfl
  · split <;> simp

/-- R109, R113, R114: the engine's entry starts the silence watch, and leaves the Night Unit. -/
theorem engineEntry_nightAndWatch (s : State) : (engineEntry s).nightAndWatch = (s.night, true) := by
  have entered : (rereadTold (settleOwed (reconcile s))).nightAndWatch = s.nightAndWatch := by simp
  unfold engineEntry
  dsimp only
  rw [judgeWatch_nightAndWatch, watchStarted_nightAndWatch, nightAndWatch_night entered]

theorem enterSync_nightAndWatch (s : State) : (enterSync s).nightAndWatch = (s.night, true) := by
  unfold enterSync
  rw [review_nightAndWatch, keepMark_nightAndWatch, evaluateGate_nightAndWatch, patienceAtSync_nightAndWatch,
    workStep_nightAndWatch, engineEntry_nightAndWatch]
  rfl

/-- R64: the blocks told leave the line. -/
theorem enterSync_lineKept (s : State) : LineKept (syncEntry s) (enterSync s) :=
  .review (.keepMark (.evaluateGate (.patienceAtSync (.workStep (.engineEntry (.refl _))))))

theorem LineKept.permission {z t : State} (h : LineKept z t) : t.rli.permission = z.rli.permission :=
  (congrArg Rli.permission h.line :)

/-- R18, R64, R113: what an entry to IN_SYNC leaves that is recorded as an install by these two: the replica and the
Night Unit as they were, the joiner's side cleared, the veto permission restored, the silence watch running. -/
structure Synced (answerer asker : Nat) (s t : State) : Prop where
  state : t.member.state = .inSync
  askCount : t.member.askCount = 0
  askWait : t.member.askWait = .stopped
  adopted : t.member.adopted = none
  buffer : t.member.buffer = []
  watch : t.member.watch = none
  installAnswerer : t.member.installAnswerer = answerer
  installAsker : t.member.installAsker = asker
  vetoRun : t.rli.vetoRun = 0
  permission : t.rli.permission = .granted
  watching : t.claim.watching = true
  replica : t.replica = s.replica
  night : t.night = s.night

theorem enterSync_synced (answerer asker : Nat) (s : State) :
    Synced answerer asker s (enterSync (recordInstall answerer asker s)) := by
  have member := enterSync_member (recordInstall answerer asker s)
  have line := enterSync_lineKept (recordInstall answerer asker s)
  have replica := (Carried.refl (recordInstall answerer asker s)).enterSync.replica
  obtain ⟨night, watching⟩ := nightAndWatch_eq_iff.mp (enterSync_nightAndWatch (recordInstall answerer asker s))
  generalize enterSync (recordInstall answerer asker s) = t at member line replica night watching ⊢
  constructor
  case vetoRun => exact line.vetoRun
  case permission => exact line.permission
  case watching => exact watching
  case replica => exact replica
  case night => exact night
  all_goals
    rw [member]
    rfl

end Sys2Proof.Machine
end

