-- ==== Sys2Proof/Proofs/Joining.lean ====
section
/-! PROOFS. How a joiner collects a series and installs it (R58 to R62): O33 and O34. -/

namespace Sys2Proof.Machine

variable {s : State} {n : Nat} {b : Body} {a : Adopted} {asker index : Byte} {payload : List Byte} {g : List Group}

/-! ### The hand-over to a joiner (R46) -/

theorem heardDelivered_eq (n : Nat) (b : Body) (s : State) :
    heardDelivered n b s = handOver false n b (heardCounted n s) := rfl

theorem handOver_joining_heard (h : s.member.state = .joining) : handOver false n b s = joiningFrame false n b s := by
  simp only [handOver, h]

theorem handOver_collecting (h : s.member.state = .collecting) (own : Bool) :
    handOver own n b s = collectingFrame own n b s := by
  simp only [handOver, h]

/-! ### Adoption and collecting (R58, R59, R61) -/

/-- R58: a run 0 heard while the ask wait runs is adopted. -/
theorem joiningFrame_run0 (waits : s.member.askWait.isRunning = true) :
    joiningFrame false n (.run asker 0 payload) s = adopt n asker payload s := by
  simp [joiningFrame, waits]

/-- R58: a run 0 is adopted in place of the series being collected. -/
theorem collectingFrame_run0 (own : Bool) :
    collectingFrame own n (.run asker 0 payload) s = adopt n asker payload s := by
  cases adopted : s.member.adopted <;> simp [collectingFrame, adopted]

theorem collectingFrame_run (adopted : s.member.adopted = some a) (later : index ≠ 0) (own : Bool) :
    collectingFrame own n (.run asker index payload) s = collectRun a n index.toNat payload s := by
  simp only [collectingFrame, adopted, if_neg later]

/-- R59: any frame but a run goes to the buffer. -/
theorem collectingFrame_other (adopted : s.member.adopted = some a) (other : b.kind ≠ 0x42) (own : Bool) :
    collectingFrame own n b s = bufferFrame a own n b s := by
  cases b with
  | run => exact absurd rfl other
  | _ => simp only [collectingFrame, adopted]

/-- R58: a run 0 delivered to a joiner that may adopt it. -/
theorem handOver_run0 (may : (s.member.state = .joining ∧ s.member.askWait.isRunning = true)
    ∨ s.member.state = .collecting) : handOver false n (.run asker 0 payload) s = adopt n asker payload s := by
  rcases may with ⟨joining, waits⟩ | collecting
  · rw [handOver_joining_heard joining, joiningFrame_run0 waits]
  · rw [handOver_collecting collecting, collectingFrame_run0]

/-- R61: the adopted series with the next run stored. -/
def Adopted.stored (a : Adopted) (payload : List Byte) : Adopted :=
  { a with next := a.next + 1, runs := a.runs ++ [payload] }

/-- R60, R61: the next expected run of the adopted series, before the last. -/
theorem collectRun_next (next : a.next ≠ 21) (numbers : runNumbersOk a.next payload = true) :
    collectRun a a.answerer a.next payload s = storeRun a payload s :=
  (if_pos ⟨rfl, rfl, numbers⟩).trans (if_neg next)

/-- R62: the last run installs the series. -/
theorem collectRun_last (next : a.next = 21) (numbers : runNumbersOk 21 payload = true) :
    collectRun a a.answerer 21 payload s = install (a.stored payload) s :=
  (if_pos ⟨rfl, next.symm, next ▸ numbers⟩).trans (if_pos rfl)

theorem bufferFrame_room (room : s.member.buffer.length < 16) (own : Bool) :
    bufferFrame a own n b s = s.setMember { s.member with buffer :=
      s.member.buffer ++ [{ sender := n, body := b, own := own, lastRun := a.next - 1, age := 0 }] } := if_pos room

/-! ### No ask wait running (R60) -/

theorem joiningFrame_late (stopped : s.member.askWait.isRunning = false) :
    joiningFrame false n b s = lateFrame n b s := by
  simp [joiningFrame, stopped]

/-- R60: the next run of the series abandoned at its gap. -/
theorem lateFrame_awaited (awaited : s.member.lateRun = .awaited n index.toNat)
    (numbers : runNumbersOk index.toNat payload = true) :
    lateFrame n (.run asker index payload) s = s.setMember { s.member with lateRun := .heard } := by
  simp only [lateFrame, awaited, numbers, and_self, if_true]

/-- R60: any other frame is set aside. -/
theorem lateFrame_other (other : ¬ ∃ asker index payload, b = .run asker index payload
    ∧ s.member.lateRun = .awaited n index.toNat ∧ runNumbersOk index.toNat payload = true) :
    lateFrame n b s = s := by
  unfold lateFrame
  split
  case h_1 answerer next asker index payload awaited =>
    refine if_neg ?_
    rintro ⟨rfl, rfl, numbers⟩
    exact other ⟨asker, index, payload, rfl, awaited, numbers⟩
  case h_2 => rfl

/-- Settles O33: the delivery is counted, which writes nothing of the Membership Unit, and handed over. -/
theorem joinerCollectsASeries : Obligations.JoinerCollectsASeries := by
  intro s g n frames
  refine ⟨fun asker payload whole may => ?_, fun a asker index payload whole collecting adopted from_it next low high
    numbers => ?_, fun a b whole other collecting adopted room => ?_, fun b late whole joining stopped hlate => ?_⟩
  · rw [exec_heardDelivered frames whole, heardDelivered_eq, handOver_run0 (by exact may)]
    exact ⟨_, rfl, rfl, rfl, rfl, rfl, rfl, rfl, rfl⟩
  · subst from_it
    have later : index ≠ 0 := by
      rintro rfl
      exact absurd next.symm (Nat.ne_of_gt low)
    rw [exec_heardDelivered frames whole, heardDelivered_eq, handOver_collecting (by exact collecting),
      collectingFrame_run (by exact adopted) later, next, collectRun_next (by omega) numbers]
    exact ⟨_, rfl, collecting, rfl, rfl, rfl⟩
  · rw [exec_heardDelivered frames whole, heardDelivered_eq, handOver_collecting (by exact collecting),
      collectingFrame_other (by exact adopted) other, bufferFrame_room (by exact room)]
    exact ⟨_, rfl, collecting, rfl, rfl⟩
  · rw [exec_heardDelivered frames whole, heardDelivered_eq, handOver_joining_heard (by exact joining),
      joiningFrame_late (by exact stopped)]
    by_cases is_late : late
    · obtain ⟨asker, index, payload, rfl, awaited, numbers⟩ := hlate.mp is_late
      rw [lateFrame_awaited (by exact awaited) numbers]
      exact ⟨_, rfl, rfl, fun _ => rfl, fun never => absurd is_late never⟩
    · rw [lateFrame_other (by exact fun it => is_late (hlate.mpr it))]
      exact ⟨_, rfl, rfl, fun it => absurd it is_late, fun _ => rfl⟩

/-! ### The install (R45, R62, R87) -/

/-- R45: a common change of a run leaves the night record. -/
theorem commonChanges_night (answerer k : Nat) (r : Replica) : (commonChanges answerer k r).night = r.night := by
  induction k generalizing r with
  | zero => rfl
  | succ k ih => exact ih (commonChange r answerer)

/-- R62: the replica and the counts as the collected series spells them. -/
def seriesWritten (a : Adopted) (s : State) : State :=
  countsFromRun0 a.run0 ((s.setReplica (snapshotReplica s.freeCount a.run0 a.runs)).setFreeCount (s.freeCount + 1))

/-- R87: the due flags are run 0's. -/
theorem seriesWritten_flags (a : Adopted) (s : State) :
    (seriesWritten a s).night.startDue = (byteAt a.run0 6).getLsbD 5
      ∧ (seriesWritten a s).night.deadlineDue = (byteAt a.run0 6).getLsbD 6
      ∧ (seriesWritten a s).night.graceDue = (byteAt a.run0 6).getLsbD 7 := ⟨rfl, rfl, rfl⟩

/-- R87, R180: the counts of run 0 are start and deadline of a night that does not close. -/
theorem seriesWritten_open (h : (snapshotReplica s.freeCount a.run0 a.runs).night.state ≠ .closing) :
    (seriesWritten a s).night.start = carriedCount (wordAt a.run0 13).toNat
      ∧ (seriesWritten a s).night.deadline = carriedCount (wordAt a.run0 15).toNat
      ∧ (seriesWritten a s).night.grace = .stopped := by
  simp [seriesWritten, countsFromRun0, h]

/-- R87, R180: the first count of run 0 is the grace of a night that closes. -/
theorem seriesWritten_closing (h : (snapshotReplica s.freeCount a.run0 a.runs).night.state = .closing) :
    (seriesWritten a s).night.start = .stopped ∧ (seriesWritten a s).night.deadline = .stopped
      ∧ (seriesWritten a s).night.grace = carriedCount (wordAt a.run0 13).toNat := by
  simp [seriesWritten, countsFromRun0, h]

/-- R45, R62: an install writes the series, replays the buffer and enters IN_SYNC. -/
theorem install_synced (a : Adopted) (s : State) :
    Synced a.answerer a.asker (replay a.answerer 0 s.member.buffer (seriesWritten a s)) (install a s) :=
  enterSync_synced _ _ _

/-- R45: with nothing buffered the replica takes the common changes of runs 1 to 21, and the Night Unit nothing. -/
theorem replay_empty (answerer : Nat) (empty : s.member.buffer = []) (t : State) :
    replay answerer 0 s.member.buffer t = t.setReplica (commonChanges answerer 21 t.replica) := by
  rw [empty]
  rfl

/-- Settles O34: the delivery is counted, the series installed and IN_SYNC entered. -/
theorem lastRunInstallsTheReplica : Obligations.LastRunInstallsTheReplica := by
  intro s g a asker index payload frames whole collecting adopted last next numbers
  subst last
  have installs : exec (.frameDelivered (.heard g)) s
      = .next (install (a.stored payload) (heardCounted a.answerer s)) := by
    rw [exec_heardDelivered frames whole, heardDelivered_eq, handOver_collecting (by exact collecting),
      collectingFrame_run (by exact adopted) (by decide), show (21 : Byte).toNat = 21 from rfl,
      collectRun_last next numbers]
  obtain ⟨pins, -, cfg, -⟩ := (frameEndsDelivered_cases (.heard g) s).frame
  rw [show frameEndsDelivered (.heard g) s = _ from Host.Outcome.next.inj installs] at pins cfg
  have synced := install_synced (a.stored payload) (heardCounted a.answerer s)
  refine ⟨_, installs, synced.state, synced.askCount, synced.adopted, synced.buffer, synced.installAnswerer,
    synced.installAsker, synced.vetoRun, synced.permission, synced.watching, cfg, pins, fun empty => ?_⟩
  rw [replay_empty _ (by exact empty)] at synced
  have replica := synced.replica
  have night := synced.night
  rw [night, replica, setReplica_replica, commonChanges_night]
  obtain ⟨startDue, deadlineDue, graceDue⟩ := seriesWritten_flags (a.stored payload) (heardCounted a.answerer s)
  exact ⟨rfl, startDue, deadlineDue, graceDue, seriesWritten_open, seriesWritten_closing⟩

end Sys2Proof.Machine
end

