-- ==== Sys2Proof/Proofs/AskAndGap.lean ====
section
/-! PROOFS. What the ask wait and the gap of a series decide (R50, R51, R60, R67): O39. -/

namespace Sys2Proof.Machine

variable {s : State}

/-! ### An unsuccessful ask (R50, R67) -/

theorem askUnsuccessful_below (h : s.member.askCount < 4) :
    askUnsuccessful s = placeAsk (s.setMember { s.member with state := .joining }) := if_neg (Nat.not_le_of_lt h)

theorem askUnsuccessful_fourth (h : 4 ≤ s.member.askCount) : askUnsuccessful s = isolate false s := if_pos h

/-- R67: a station isolated for its asks alone raises ISOLATED and not DUPLICATE_NUMBER. -/
theorem isolate_false_pending (s : State) : (isolate false s).isPending .isolated = true
    ∧ (isolate false s).isPending .duplicateNumber = s.isPending .duplicateNumber :=
  ⟨raise_pending_self _ _, raise_pending_ne _ (by decide)⟩

/-! ### The ask wait (R50, R51) -/

theorem exec_askWaitExpiry (waits : s.member.askWait.isRunning = true) (joining : s.member.state = .joining) :
    exec .askWaitExpiry s = .next (askWaitOver s) := congrArg Host.Outcome.next (if_pos ⟨waits, joining⟩)

/-- R51: the station that founds the row keeps the replica it holds. -/
theorem foundRow_synced (s : State) : Synced 0 0 s (foundRow s) := enterSync_synced 0 0 s

/-- R50, R51: where only asks were heard the row is founded. -/
theorem askWaitOver_onlyAsks (h : s.member.onlyAsks = true) :
    Synced 0 0 (s.setMember { s.member with askWait := .stopped }) (askWaitOver s) := by
  unfold askWaitOver
  dsimp only
  rw [if_pos h]
  exact foundRow_synced _

theorem askWaitOver_others (h : s.member.onlyAsks = false) :
    askWaitOver s = askUnsuccessful (s.setMember { s.member with askWait := .stopped }) := by
  simp [askWaitOver, h]

/-! ### The gap of a series (R60) -/

theorem exec_seriesGapExpiry (runs : s.member.seriesGap.isRunning = true) (collecting : s.member.state = .collecting) :
    exec .seriesGapExpiry s = .next (seriesGapOver s) := congrArg Host.Outcome.next (if_pos ⟨runs, collecting⟩)

/-- R60: the run that a station left JOINING by the gap awaits: the next one of the series abandoned (log 37). -/
def Member.awaited (m : Member) : LateRun :=
  match m.adopted with
  | some a => .awaited a.answerer a.next
  | none => .none

/-- R50, R60: below the fourth ask the station asks again, and awaits the late run. -/
theorem seriesGapOver_below (h : s.member.askCount < 4) : ∃ x, seriesGapOver s = (s.setRli x).setMember
      { (clearJoiner s).member with state := .joining, lateRun := s.member.awaited }
    ∧ (s.slot .ask = .empty → x.queue.get .ask = fresh .ask) := by
  obtain ⟨x, back, -, ask⟩ := abandon_below h
  refine ⟨x, ?_, ask⟩
  unfold seriesGapOver Member.awaited
  dsimp only
  rw [back, setMember_member]
  cases s.member.adopted <;> rfl

/-- R50, R60: at the fourth ask the station is isolated. -/
theorem seriesGapOver_fourth (h : 4 ≤ s.member.askCount) : seriesGapOver s = isolate false (clearJoiner s) := by
  have isolated : abandon s = isolate false (clearJoiner s) := askUnsuccessful_fourth (s := clearJoiner s) h
  unfold seriesGapOver
  dsimp only
  rw [isolated]
  rfl

/-- Settles O39: the ask wait by what was heard and by the ask count, the gap by the ask count. -/
theorem askAndGapTimersDecide : Obligations.AskAndGapTimersDecide := by
  intro s
  refine ⟨fun waits joining => ?_, fun runs collecting => ?_⟩
  · rw [exec_askWaitExpiry waits joining]
    refine ⟨fun only => ?_, fun others below => ?_, fun others fourth => ?_⟩
    · have founded := askWaitOver_onlyAsks only
      exact ⟨_, rfl, founded.state, founded.replica, founded.installAnswerer, founded.installAsker, founded.askCount,
        founded.vetoRun, founded.permission, founded.watch, founded.askWait, founded.watching⟩
    · obtain ⟨x, placed, -, -, ask⟩ := placeAsk_eq
        (s.setMember { s.member with state := .joining, askWait := .stopped })
      rw [askWaitOver_others others, askUnsuccessful_below (by exact below)]
      exact ⟨_, congrArg Host.Outcome.next placed, rfl, rfl, rfl, ask, rfl, rfl⟩
    · rw [askWaitOver_others others, askUnsuccessful_fourth (by exact fourth)]
      obtain ⟨isolated, duplicate⟩ := isolate_false_pending (s.setMember { s.member with askWait := .stopped })
      exact ⟨_, rfl, rfl, isolated, duplicate, rfl, rfl⟩
  · rw [exec_seriesGapExpiry runs collecting]
    rcases Nat.lt_or_ge s.member.askCount 4 with below | fourth
    · obtain ⟨x, back, ask⟩ := seriesGapOver_below below
      rw [back]
      refine ⟨_, rfl, rfl, rfl, rfl, rfl, fun _ => ⟨rfl, rfl, ask, fun a adopted => ?_⟩,
        fun fourth => absurd fourth (Nat.not_le_of_lt below)⟩
      show s.member.awaited = .awaited a.answerer a.next
      rw [Member.awaited, adopted]
    · rw [seriesGapOver_fourth fourth]
      obtain ⟨isolated, -⟩ := isolate_false_pending (clearJoiner s)
      exact ⟨_, rfl, rfl, rfl, rfl, rfl, fun below => absurd fourth (Nat.not_le_of_lt below),
        fun _ => ⟨rfl, isolated, rfl⟩⟩

end Sys2Proof.Machine
end

