-- ==== Sys2Proof/Proofs/Answerer.lean ====
section
/-! PROOFS. The timers of an answerer (R54, R55, R57): O40. -/

namespace Sys2Proof.Machine

variable {s : State}

theorem exec_seriesWatchGapExpiry (watch : s.member.watch ≠ none) :
    exec .seriesWatchGapExpiry s = .next (watchGapOver s) :=
  congrArg Host.Outcome.next (if_pos (Option.isSome_iff_ne_none.mpr watch))

/-- R55: a station with no series of its own ends the watch. -/
theorem watchGapOver_idle (h : s.member.position = 0) : watchGapOver s = endWatch s := by
  simp only [watchGapOver, h, if_true]

/-- R55, R57: a station that is answering stops its series first. -/
theorem watchGapOver_answering (h : s.member.position ≠ 0) : watchGapOver s = endWatch (stopSeries s) := by
  simp only [watchGapOver, h, if_false]

/-- R55: the watch ends, with no ask held. -/
theorem endWatch_none_held (watch : s.member.watch ≠ none) (held : s.member.askHeld = false) :
    endWatch s = s.setMember { s.member with watch := none } := by
  obtain ⟨w, hw⟩ := Option.ne_none_iff_exists'.mp watch
  simp only [endWatch, hw, answerHeld, setMember_member, held, Bool.false_eq_true, if_false]

/-- R55: the watch ends, and the ask that was held is answered for any asker. -/
theorem endWatch_held (watch : s.member.watch ≠ none) (held : s.member.askHeld = true) : endWatch s =
    placeRun0 (s.setMember { s.member with watch := none, askHeld := false, answerPending := true, asker := 0 }) := by
  obtain ⟨w, hw⟩ := Option.ne_none_iff_exists'.mp watch
  simp only [endWatch, hw, answerHeld, setMember_member, held, if_true]
  rfl

/-- R53, R54: run 0 is placed with the values as they stand. -/
theorem placeRun0_empty (h : s.slot .series = .empty) : placeRun0 s = s.setSlot .series (fresh s.run0Body) :=
  place_empty _ h

/-- R56, R57: a series is stopped with its WAITING run withdrawn. -/
theorem stopSeries_waiting {q : Queued} (h : s.slot .series = .waiting q) : stopSeries s =
    (s.setMember { s.member with position := 0, snapshot := none, pause := .stopped }).setSlot .series .empty :=
  withdraw_waiting (q := q) h

theorem exec_seriesPauseEnd (pauses : s.member.pause.isRunning = true) :
    exec .seriesPauseEnd s = .next (placeRun (s.member.position + 1) s) := congrArg Host.Outcome.next (if_pos pauses)

/-- R57: run k is placed from the snapshot. -/
theorem placeRun_empty {snap : Snapshot} (k : Nat) (taken : s.member.snapshot = some snap)
    (h : s.slot .series = .empty) : placeRun k s =
      (s.setMember { s.member with position := k, pause := .stopped }).setSlot .series (fresh (runBody snap k)) := by
  simp only [placeRun, taken]
  exact place_empty _ h

/-- R54: a WAITING run 0 is placed anew. -/
theorem refreshRun0_waiting {q : Queued} (h : s.slot .series = .waiting q) (run0 : q.body.isRun0 = true) :
    refreshRun0 s = s.setSlot .series (fresh s.run0Body) := by
  simp only [refreshRun0, h, run0, if_true]

/-- Settles O40: the watch's gap by the series position and the ask held, then the pause's end and the whole second. -/
theorem answererTimersPlaceRuns : Obligations.AnswererTimersPlaceRuns := by
  intro s
  refine ⟨fun watch idle held empty => ?_, fun watch idle none_held => ?_,
    fun q watch answering none_held waits => ?_, fun snap pauses taken empty => ?_,
    fun q asker payload waits run0 => ?_⟩
  · rw [exec_seriesWatchGapExpiry watch, watchGapOver_idle idle, endWatch_held watch held,
      placeRun0_empty (by exact empty)]
    exact ⟨_, rfl, rfl, rfl, rfl, rfl, slot_setSlot_self _ _ _, rfl⟩
  · rw [exec_seriesWatchGapExpiry watch, watchGapOver_idle idle, endWatch_none_held watch none_held]
  · rw [exec_seriesWatchGapExpiry watch, watchGapOver_answering answering, stopSeries_waiting waits,
      endWatch_none_held (by exact watch) (by exact none_held)]
    exact ⟨_, rfl, rfl, rfl, rfl, slot_setSlot_self s .series .empty, rfl⟩
  · rw [exec_seriesPauseEnd pauses, placeRun_empty _ taken empty]
    exact ⟨_, rfl, rfl, rfl, slot_setSlot_self _ _ _, rfl⟩
  · have is_run0 : q.body.isRun0 = true := by rw [run0]; rfl
    exact ⟨_, congrArg Host.Outcome.next (refreshRun0_waiting waits is_run0), slot_setSlot_self _ _ _,
      fun src other => slot_setSlot_ne _ _ other, rfl, rfl⟩

end Sys2Proof.Machine
end

