-- ==== Sys2Proof/Proofs/Rejoin.lean ====
section
/-! PROOFS. Rejoin (R23, R68 to R70): O41. -/

namespace Sys2Proof.Machine

variable {s : State} {src : Source} {q : Queued} {f : Word16} {c : Bool}

/-! ### The queue at rejoin (R23) -/

/-- R23: no slot is WAITING once it is cleared. -/
theorem Slot.cleared_isWaiting (x : Slot) : x.cleared.isWaiting = false := by cases x <;> rfl

theorem Slot.cleared_eq_empty {x : Slot} (h : x.isSending = false) : x.cleared = .empty := by
  cases x with
  | empty => rfl
  | waiting q => rfl
  | sending q f c => cases h

/-- R106: the queue stays as it is while the pools of a WAITING RELEASE become owed. -/
theorem oweWaiting_slot (s : State) (src : Source) : (oweWaiting s).slot src = s.slot src := by
  obtain ⟨x, owed, owing, queue, -⟩ := oweWaiting_eq s
  rw [owing]
  exact congrArg (Queue.get · src) queue

/-- R98: forgetting the frame in the claim slot keeps the holds and the request. -/
theorem forgetClaimFrame_eq (s : State) : ∃ x, forgetClaimFrame s = s.setClaim x
    ∧ x.ownHolds = s.claim.ownHolds ∧ x.request = s.claim.request := by
  unfold forgetClaimFrame
  split
  · exact ⟨s.claim, rfl, rfl, rfl⟩
  · exact ⟨_, rfl, rfl, rfl⟩

/-- R48: an ask whose slot is SENDING waits for the slot. -/
theorem joinEntry_ask_sending (h : s.slot .ask = .sending q f c) : (joinEntry s).slot .ask = .sending q f c := by
  have slot : ((clearJoiner s).setMember { (clearJoiner s).member with state := .joining, askCount := 0 }).slot .ask
      = .sending q f c := h
  unfold joinEntry placeAsk
  dsimp only
  rw [slot]
  exact h

/-! ### What rejoin leaves (R69) -/

/-- R69: what rejoin leaves before JOINING is entered: the replica cold, the queue cleared, the engine suspended, the
answerer cleared and the line's counts at 0. -/
def rejoinLeft (s : State) : State :=
  let s1 := suspendEngine (clearAnswerer
    (clearQueue (forgetClaimFrame (forgetRelay (oweWaiting (clearReplica s))))))
  let s2 := s1.setMember { s1.member with watch := none, cooldown := .stopped }
  s2.setRli { s2.rli with vetoRun := 0, collisions := 0, permission := .granted }

theorem rejoinStation_eq (s : State) : rejoinStation s = joinEntry (rejoinLeft s) := rfl

/-- R23: every slot is cleared. -/
theorem rejoinLeft_slot (s : State) (src : Source) : (rejoinLeft s).slot src = (s.slot src).cleared := by
  obtain ⟨x, forgets, -, -⟩ := forgetClaimFrame_eq (forgetRelay (oweWaiting (clearReplica s)))
  have cleared := clearQueue_slot (forgetClaimFrame (forgetRelay (oweWaiting (clearReplica s)))) src
  rw [show (forgetClaimFrame (forgetRelay (oweWaiting (clearReplica s)))).slot src = s.slot src by
    rw [forgets]; exact oweWaiting_slot (clearReplica s) src] at cleared
  exact cleared

/-- R24: the statistics are kept, and the counts of the line start again. -/
theorem rejoinLeft_line (s : State) : (rejoinLeft s).rli.line =
    { s.rli.line with vetoRun := 0, collisions := 0, permission := .granted } := by
  have kept : LineKept (clearReplica s) (forgetClaimFrame (forgetRelay (oweWaiting (clearReplica s)))) :=
    .forgetClaimFrame (.forgetRelay (.oweWaiting (.refl _)))
  have line := congrArg (fun r : Rli => { r with vetoRun := 0, collisions := 0, permission := .granted }) kept.line
  exact line

/-- R69: the other blocks are written as rejoin says, and the Claim Engine keeps its holds and its request. -/
theorem rejoinLeft_eq (s : State) : ∃ x y, rejoinLeft s =
      ((((clearReplica s).setRli x).setClaim y).setNight { (clearReplica s).night with relay := none }).setMember
        { (clearAnswerer s).member with watch := none, cooldown := .stopped }
    ∧ y.ownHolds = s.claim.ownHolds ∧ y.request = s.claim.request := by
  obtain ⟨x, owed, owing, -, -⟩ := oweWaiting_eq (clearReplica s)
  obtain ⟨y, forgets, holds, request⟩ := forgetClaimFrame_eq (forgetRelay (oweWaiting (clearReplica s)))
  rw [owing] at holds request
  refine ⟨(rejoinLeft s).rli, (suspendEngine (s.setClaim y)).claim, ?_, holds, request⟩
  unfold rejoinLeft
  rw [forgets, owing]
  rfl

/-- R48, R69: the state of R69. -/
theorem rejoinStation_rejoined (s : State) : Rejoined s (rejoinStation s) ∧ (rejoinStation s).link = s.link := by
  obtain ⟨x, joins, counts, others, ask⟩ := joinEntry_eq (rejoinLeft s)
  have slot (o : Source) (h : o ≠ .ask) : (rejoinStation s).slot o = (s.slot o).cleared := by
    rw [rejoinStation_eq, joins]
    exact (others o h).trans (rejoinLeft_slot s o)
  have asks (h : (s.slot .ask).isSending = false) : (rejoinStation s).slot .ask = fresh .ask := by
    rw [rejoinStation_eq, joins]
    exact ask ((rejoinLeft_slot s .ask).trans (Slot.cleared_eq_empty h))
  have sends (o : Source) (q : Queued) (f : Word16) (c : Bool) (h : s.slot o = .sending q f c) :
      (rejoinStation s).slot o = .sending q f true := by
    by_cases is_ask : o = .ask
    · subst is_ask
      exact joinEntry_ask_sending ((rejoinLeft_slot s .ask).trans (congrArg Slot.cleared h))
    · exact (slot o is_ask).trans (congrArg Slot.cleared h)
  have line : (rejoinStation s).rli.line =
      { s.rli.line with vetoRun := 0, collisions := 0, permission := .granted } := by
    rw [rejoinStation_eq, joins]
    exact counts.trans (rejoinLeft_line s)
  obtain ⟨w, y, left, holds, request⟩ := rejoinLeft_eq s
  rw [rejoinStation_eq, joins, left] at slot asks sends line ⊢
  refine ⟨?_, rfl⟩
  exact {
    state := ⟨rfl, rfl, rfl, rfl⟩
    replica := rfl
    counts := ⟨rfl, rfl, rfl, rfl, rfl, rfl⟩
    slots := fun o h => (congrArg Slot.isWaiting (slot o h)).trans (Slot.cleared_isWaiting _)
    ask := asks
    sending := sends
    line := ⟨(congrArg Rli.vetoRun line :), (congrArg Rli.collisions line :), (congrArg Rli.permission line :)⟩
    statistics := ⟨(congrArg Rli.framesDelivered line :), (congrArg Rli.framesVetoed line :),
      (congrArg Rli.arbLosses line :), (congrArg Rli.rxErrors line :)⟩
    catchUp := ⟨rfl, rfl, rfl, rfl, rfl⟩
    installed := ⟨rfl, rfl⟩
    engine := ⟨holds, request⟩
    lastHeard := rfl
    sequencer := rfl
    gate := rfl
    events := ⟨rfl, rfl⟩ }

/-! ### The command and the cooldown (R68, R70) -/

/-- R69: of the link rejoin reads nothing and keeps the events; what else the link writes before and after is its
own. -/
theorem Rejoined.setLink {t : State} {x y : LinkPort} (h : Rejoined (s.setLink x) t)
    (before : x.events = s.link.events ∧ x.mask = s.link.mask := by exact ⟨rfl, rfl⟩)
    (after : y.events = t.link.events ∧ y.mask = t.link.mask := by exact ⟨rfl, rfl⟩) : Rejoined s (t.setLink y) := by
  obtain ⟨events, mask⟩ := h.events
  obtain ⟨events_before, mask_before⟩ := before
  obtain ⟨events_after, mask_after⟩ := after
  exact { h with
    events := ⟨events_after.trans (events.trans events_before), mask_after.trans (mask.trans mask_before)⟩ }

/-- R70: an UNCONFIGURED station refuses. -/
theorem takeRejoin_unconfigured (h : s.member.state = .unconfigured) : takeRejoin s = noteCommand 0x01 .refused s :=
  if_pos h

theorem takeRejoin_taken (h : s.member.state ≠ .unconfigured) :
    takeRejoin s = noteCommand 0x01 .done (rejoinStation s) := if_neg h

theorem exec_isolatedCooldownExpiry (runs : s.member.cooldown.isRunning = true)
    (isolated : s.member.state = .isolated) :
    exec .isolatedCooldownExpiry s = .next (rejoinStation s) := congrArg Host.Outcome.next (if_pos ⟨runs, isolated⟩)

/-- Settles O41: the command by what the port takes and by the membership state, then the cooldown. -/
theorem rejoinStartsMembershipAgain : Obligations.RejoinStartsMembershipAgain := by
  intro s argument
  refine ⟨fun taken first configured => ?_, fun taken first unconfigured => ?_, fun taken done => ?_,
    fun runs isolated => ?_⟩
  · have rejoins : exec (.rejoin argument) s = .next (busTaken (noteCommand 0x01 .done
        (rejoinStation (s.setLink { s.link with commandDone := true })))) :=
      congrArg Host.Outcome.next ((busCommand_taken taken first).trans
        (congrArg busTaken (takeRejoin_taken (by exact configured))))
    obtain ⟨-, writing, -⟩ := (takesWrite_iff s .command).mp taken
    obtain ⟨rejoined, link⟩ := rejoinStation_rejoined (s.setLink { s.link with commandDone := true })
    rw [rejoins]
    generalize rejoinStation (s.setLink { s.link with commandDone := true }) = t at rejoined link ⊢
    exact ⟨_, rfl, rejoined.setLink, rfl, rfl, rfl, (congrArg LinkPort.writing link :).trans writing,
      (congrArg LinkPort.commandDone link :), (congrArg LinkPort.view link :), (congrArg LinkPort.index link :),
      (congrArg LinkPort.capture link :), (congrArg LinkPort.report link :)⟩
  · exact congrArg Host.Outcome.next ((busCommand_taken taken first).trans
      (congrArg busTaken (takeRejoin_unconfigured (by exact unconfigured))))
  · exact congrArg Host.Outcome.next (busCommand_ignored taken done)
  · obtain ⟨rejoined, link⟩ := rejoinStation_rejoined s
    exact ⟨_, exec_isolatedCooldownExpiry runs isolated, rejoined, link⟩

end Sys2Proof.Machine
end

