-- ==== Sys2Proof/Proofs/NightFrames.lean ====
section
/-! PROOFS. What ORDER and NIGHT frames make of the replica (R74, R78 to R80, R82): O19, O20 and O21. -/

namespace Sys2Proof.Machine

variable {r x : Replica} {n m : Nat} {b : Body} {v : Verdict}

/-! ### Order ids and minutes (R73, R74, R78) -/

theorem newer_iff {id current : Word16} : newer id current = true ↔
    id ≠ 0 ∧ (current = 0 ∨ (1 ≤ (id - current).toNat ∧ (id - current).toNat ≤ 32767)) := by
  simp [newer]

/-- Settles O21: the three clauses are the cases of `newer_iff`. -/
theorem newerOrderIds : Obligations.NewerOrderIds := by
  intro id current
  refine ⟨fun known named => ?_, fun unknown named => newer_iff.mpr ⟨named, .inl unknown⟩, rfl⟩
  rw [newer_iff, and_iff_right named, or_iff_right known]

theorem minutesInRange_iff {start deadline grace : Nat} : minutesInRange start deadline grace = true ↔
    start ≤ 720 ∧ 1 ≤ deadline ∧ deadline ≤ 900 ∧ start < deadline ∧ grace ≤ 120 := by
  simp [minutesInRange, and_assoc]

theorem minutesInRange_eq_false_iff {start deadline grace : Nat} : minutesInRange start deadline grace = false ↔
    720 < start ∨ deadline = 0 ∨ 900 < deadline ∨ deadline ≤ start ∨ 120 < grace := by
  rw [← Bool.not_eq_true, minutesInRange_iff]
  omega

/-! ### An application and its kind part (R36) -/

theorem applyFrame_eq (h : kindPart r n b = (x, v)) : applyFrame r n b = (commonChange x n, v) := by
  simp only [applyFrame, h]

/-- R33: the common change writes nothing of an entry but its presence and heard count. -/
theorem commonChange_entry_field {α : Type} (g : Entry → α) (r : Replica) (n m : Nat)
    (hg : ∀ e : Entry, g { e with presence := .present, heard := e.heard + 1 } = g e := by exact fun _ => rfl) :
    g ((commonChange r n).entry m) = g (r.entry m) := rosterEntry_modify_field g r.roster n m hg

/-- R82: the reservation of a pool that had one goes, and its generation rises. -/
theorem clearReservation_eq (p : PoolRecord) : clearReservation p =
    { capacity := p.capacity, inUse := p.inUse
      generation := if p.reserver = 0 then p.generation else p.generation + 1
      reserver := 0, reserved := if p.reserver = 0 then p.reserved else 0 } := by
  obtain ⟨capacity, inUse, generation, reserver, reserved⟩ := p
  unfold clearReservation
  split
  case isTrue free => obtain rfl : reserver = 0 := free; rfl
  case isFalse => rfl

/-! ### ORDER (R78, R82) -/

section Order

variable {id start deadline : Word16} {image : Word32} {grace : Byte} {caps : PerPool Byte}

theorem orderMade_iff {night : NightRecord} : orderMade night id start deadline grace = true ↔
    newer id night.id = true ∧ (night.state = .idle ∨ night.state = .ended)
      ∧ minutesInRange start.toNat deadline.toNat grace.toNat = true := by
  simp [orderMade, and_assoc]

/-- R78: the ORDERs that are void. -/
theorem orderMade_eq_false_iff {night : NightRecord} : orderMade night id start deadline grace = false ↔
    newer id night.id = false ∨ (night.state ≠ .idle ∧ night.state ≠ .ended)
      ∨ minutesInRange start.toNat deadline.toNat grace.toNat = false := by
  rw [← Bool.not_eq_true, orderMade_iff, ← Bool.not_eq_true, ← Bool.not_eq_true]
  tauto

theorem applyFrame_order_made (made : orderMade r.night id start deadline grace = true) :
    applyFrame r n (.order id image start deadline grace caps.surge caps.load caps.feed) =
      (commonChange (writeOrder r n id image start deadline grace (caps.map BitVec.toNat)) n, .made) :=
  applyFrame_eq (if_pos made)

theorem applyFrame_order_void (void : orderMade r.night id start deadline grace = false) :
    applyFrame r n (.order id image start deadline grace caps.surge caps.load caps.feed) = (commonChange r n, .void) :=
  applyFrame_eq (if_neg (by rw [void]; exact Bool.false_ne_true))

/-- R82: an ORDER empties the marks and the state of every entry. -/
theorem writeOrder_entry (r : Replica) (n : Nat) (id : Word16) (image : Word32) (start deadline : Word16) (grace : Byte)
    (caps : PerPool Nat) (m : Nat) :
    (writeOrder r n id image start deadline grace caps).entry m = { r.entry m with marks := 0, state := none } :=
  rosterEntry_map (f := fun e => { e with marks := 0, state := none }) rfl r.roster m

end Order

/-- Settles O19: the conditions are those of orderMade; the common change comes after what the ORDER writes and touches
neither the night record nor a pool. -/
theorem orderWritesTheNight : Obligations.OrderWritesTheNight := by
  intro r n id start deadline image grace caps t v _ _ _ applied
  refine ⟨fun is_newer between start_ok some_deadline deadline_ok order_ok grace_ok => ?_, fun fails => ?_⟩
  · have made := orderMade_iff.mpr
      ⟨is_newer, between, minutesInRange_iff.mpr ⟨start_ok, some_deadline, deadline_ok, order_ok, grace_ok⟩⟩
    obtain ⟨rfl, rfl⟩ := Prod.mk.inj ((applyFrame_order_made made).symm.trans applied)
    have entry := writeOrder_entry r n id image start deadline grace (caps.map BitVec.toNat)
    refine ⟨rfl, ?_, fun p => ?_, fun m _ _ => ⟨?_, ?_, ?_, ?_, ?_⟩⟩
    · have zero : (start.toNat = 0) = (start = 0) := propext (BitVec.toNat_inj (y := 0))
      simp only [commonChange, writeOrder, zero]
    · simp only [commonChange, writeOrder, PerPool.get_ofFun, PerPool.get_map, clearReservation_eq]
    · rw [commonChange_entry_field Entry.marks, entry]
    · rw [commonChange_entry_field Entry.state, entry]
    · rw [commonChange_entry_field Entry.holds, entry]
    · rw [commonChange_entry_field Entry.progress, entry]
    · rw [commonChange_entry_field Entry.attempt, entry]
  · have void : orderMade r.night id start deadline grace = false := by
      rw [orderMade_eq_false_iff, minutesInRange_eq_false_iff]
      exact fails
    obtain ⟨rfl, rfl⟩ := Prod.mk.inj ((applyFrame_order_void void).symm.trans applied)
    exact ⟨rfl, rfl⟩

/-! ### NIGHT (R79, R80, R82) -/

section Night

variable {id : Word16} {a : NightAction} {f t : NightState}

/-- R79: the rows of the table. -/
theorem nightRow_iff : nightRow a f t = true ↔
    (a = .step ∧ f = .pending ∧ t = .running)
      ∨ (a = .step ∧ (f = .pending ∨ f = .running ∨ f = .held) ∧ t = .closing)
      ∨ (a = .step ∧ f = .closing ∧ t = .ended)
      ∨ (a = .hold ∧ (f = .pending ∨ f = .running) ∧ t = .held)
      ∨ (a = .resume ∧ f = .held ∧ (t = .pending ∨ t = .running))
      ∨ (a = .abort ∧ (f = .pending ∨ f = .running ∨ f = .held ∨ f = .closing) ∧ t = .ended) := by
  cases a with
  | step => cases f <;> cases t <;> decide
  | hold => cases f <;> cases t <;> decide
  | resume => cases f <;> cases t <;> decide
  | abort => cases f <;> cases t <;> decide

/-- R80: HOLD, ABORT and a step into CLOSING clear the reservations. -/
theorem nightClears_iff : nightClears a t = true ↔ a = .hold ∨ a = .abort ∨ (a = .step ∧ t = .closing) := by
  cases a <;> simp [nightClears]

/-- R79: what a NIGHT frame of known codes is judged by. -/
theorem nightMade_codes (night : NightRecord) : nightMade night id a.code f.code t.code =
    if id = night.id ∧ f = night.state ∧ nightRow a f t = true ∧ (a = .resume → t = night.heldFrom.state)
    then some (a, t) else none := by
  simp only [nightMade, NightAction.ofCode_code, NightState.ofCode_code]

theorem applyFrame_night_made {action fromState toState : Byte}
    (made : nightMade r.night id action fromState toState = some (a, t)) :
    applyFrame r n (.night id action fromState toState) = (commonChange (writeNight r a t) n, .made) :=
  applyFrame_eq (by simp only [kindPart, made])

theorem applyFrame_night_void {action fromState toState : Byte}
    (void : nightMade r.night id action fromState toState = none) :
    applyFrame r n (.night id action fromState toState) = (commonChange r n, .void) :=
  applyFrame_eq (by simp only [kindPart, void])

/-- 10.3: an action code of 0 or above 4 names no action. -/
theorem NightAction.ofCode_eq_none {c : Byte} (h : c = 0 ∨ 4 < c.toNat) : NightAction.ofCode c = none := by
  have other : c ≠ 1 ∧ c ≠ 2 ∧ c ≠ 3 ∧ c ≠ 4 := by bv_omega
  simp only [NightAction.ofCode, other, if_false]

/-- 10.5: a code above 5 names no night state. -/
theorem NightState.ofCode_eq_none {c : Byte} (h : 5 < c.toNat) : NightState.ofCode c = none := by
  have other : c ≠ 0 ∧ c ≠ 1 ∧ c ≠ 2 ∧ c ≠ 3 ∧ c ≠ 4 ∧ c ≠ 5 := by bv_omega
  simp only [NightState.ofCode, other, if_false]

/-- R79: a frame with a code that names nothing forms no row. -/
theorem nightMade_unknown {action fromState toState : Byte} (night : NightRecord)
    (h : action = 0 ∨ 4 < action.toNat ∨ 5 < fromState.toNat ∨ 5 < toState.toNat) :
    nightMade night id action fromState toState = none := by
  unfold nightMade
  split
  case h_2 => rfl
  case h_1 is_action is_from is_to =>
    exfalso
    rcases h with h | h | h | h
    · rw [NightAction.ofCode_eq_none (.inl h)] at is_action; cases is_action
    · rw [NightAction.ofCode_eq_none (.inr h)] at is_action; cases is_action
    · rw [NightState.ofCode_eq_none h] at is_from; cases is_from
    · rw [NightState.ofCode_eq_none h] at is_to; cases is_to

/-- R82: what a NIGHT that was made leaves of a pool. -/
theorem writeNight_pool (r : Replica) (a : NightAction) (t : NightState) (p : Pool) :
    (writeNight r a t).pools.get p =
      if nightClears a t = true then clearReservation (r.pools.get p) else r.pools.get p :=
  (apply_ite (PerPool.get · p) ..).trans (by rw [PerPool.get_map])

end Night

/-- Settles O20: the conditions are those of nightMade, R80 and R82 give the writes, and the common change touches
neither the night record nor a pool. -/
theorem nightFrameMovesTheNight : Obligations.NightFrameMovesTheNight := by
  intro r n id a f t r' v row is_row applied
  rw [← nightRow_iff] at is_row
  refine ⟨fun current from_state forms resumes => ?_, fun fails => ?_, fun x y z unknown => ?_⟩
  · have made : nightMade r.night id a.code f.code t.code = some (a, t) := by
      rw [nightMade_codes, if_pos ⟨current, from_state, is_row.mp forms, resumes⟩]
    obtain ⟨rfl, rfl⟩ := Prod.mk.inj ((applyFrame_night_made made).symm.trans applied)
    refine ⟨rfl, ?_, rfl, fun p => (writeNight_pool r a t p).trans ?_⟩
    · subst from_state
      by_cases holds : a = .hold
      · simp only [commonChange, writeNight, holds, true_and, if_true]
      · simp only [commonChange, writeNight, holds, false_and, if_false]
    · by_cases clears : a = .hold ∨ a = .abort ∨ (a = .step ∧ t = .closing)
      · rw [if_pos (nightClears_iff.mpr clears), clearReservation]
        simp only [clears, true_and, ite_not, ne_eq]
      · rw [if_neg (mt nightClears_iff.mp clears), if_neg fun both => clears both.1]
  · have void : nightMade r.night id a.code f.code t.code = none := by
      rw [nightMade_codes, if_neg]
      rintro ⟨current, from_state, forms, resumes⟩
      rcases fails with h | h | h | ⟨is_resume, h⟩
      · exact h current
      · exact h from_state
      · exact h (is_row.mpr forms)
      · exact h (resumes is_resume)
    obtain ⟨rfl, rfl⟩ := Prod.mk.inj ((applyFrame_night_void void).symm.trans applied)
    exact ⟨rfl, rfl⟩
  · exact applyFrame_night_void (nightMade_unknown r.night unknown)

end Sys2Proof.Machine
end

