-- ==== Sys2Proof/Proofs/NightCounts.lean ====
section
/-! PROOFS. What the expiry of a night count sets and places (R84, R85): O38. -/

namespace Sys2Proof.Machine

variable {s : State} {c : NightCount} {f t : NightState} {u : NightUnit}

/-! ### The wanted step (R85) -/

theorem wantedStep_deadline (due : s.night.deadlineDue = true)
    (allowed : s.replica.night.state = .pending ∨ s.replica.night.state = .running ∨ s.replica.night.state = .held) :
    s.wantedStep = some (s.replica.night.state, .closing) := if_pos ⟨due, allowed⟩

theorem wantedStep_start (early : s.night.deadlineDue = false) (due : s.night.startDue = true)
    (pending : s.replica.night.state = .pending) : s.wantedStep = some (.pending, .running) := by
  simp [State.wantedStep, early, due, pending]

theorem wantedStep_grace (due : s.night.graceDue = true) (closing : s.replica.night.state = .closing) :
    s.wantedStep = some (.closing, .ended) := by
  simp [State.wantedStep, due, closing]

/-- R85: no step is wanted where every flag that is set is for a step from another night state. -/
theorem wantedStep_eq_none (deadline : s.night.deadlineDue = false)
    (start : s.night.startDue = true → s.replica.night.state ≠ .pending)
    (grace : s.night.graceDue = true → s.replica.night.state ≠ .closing) : s.wantedStep = none := by
  simp only [State.wantedStep, deadline, Bool.false_eq_true, false_and, if_false]
  rw [if_neg fun both => start both.1 both.2, if_neg fun both => grace both.1 both.2]

/-- R85: with no flag set no step is wanted. -/
theorem wantedStep_none_due (start : s.night.startDue = false) (deadline : s.night.deadlineDue = false)
    (grace : s.night.graceDue = false) : s.wantedStep = none :=
  wantedStep_eq_none deadline (fun due => nomatch start.symm.trans due) fun due => nomatch grace.symm.trans due

/-- R85: the wanted step is placed in an EMPTY night slot. -/
theorem workStep_places (sync : s.InSync) (idle : s.slot .night = .empty) (wanted : s.wantedStep = some (f, t)) :
    workStep s = s.setSlot .night (fresh (stepBody s.replica.night f t)) := by
  have in_sync : s.member.state = .inSync := sync
  simp [workStep, in_sync, idle, State.wantedBody, wanted]

/-- R85: outside IN_SYNC (log 17), and with the night slot EMPTY where no step is wanted, nothing is placed. -/
theorem workStep_still (h : s.member.state ≠ .inSync ∨ (s.slot .night = .empty ∧ s.wantedStep = none)) :
    workStep s = s := by
  rcases h with out | ⟨idle, unwanted⟩
  · exact if_pos out
  · simp [workStep, idle, State.wantedBody, unwanted]

/-! ### What an expiry writes (R84) -/

theorem startAllowed_iff {n : NightRecord} :
    startAllowed n = true ↔ n.state = .pending ∨ (n.state = .held ∧ n.heldFrom = .pending) := by
  simp [startAllowed]

theorem deadlineAllowed_iff {n : NightRecord} :
    deadlineAllowed n = true ↔ n.state = .pending ∨ n.state = .running ∨ n.state = .held := by
  simp [deadlineAllowed, or_assoc]

theorem expireCount_start_due (allowed : startAllowed s.replica.night = true) :
    expireCount .start s = s.setNight { s.night with start := .stopped, startDue := true } := by
  simp only [expireCount, allowed, Bool.or_true]

theorem expireCount_start_only (h : ¬ startAllowed s.replica.night = true) :
    expireCount .start s = s.setNight { s.night with start := .stopped } := by
  simp only [expireCount, h, Bool.or_false]

theorem expireCount_deadline_due (allowed : deadlineAllowed s.replica.night = true) :
    expireCount .deadline s = s.setNight { s.night with deadline := .stopped, deadlineDue := true } := by
  simp only [expireCount, allowed, Bool.or_true]

theorem expireCount_deadline_only (h : ¬ deadlineAllowed s.replica.night = true) :
    expireCount .deadline s = s.setNight { s.night with deadline := .stopped } := by
  simp only [expireCount, h, Bool.or_false]

theorem expireCount_grace_due (closing : s.replica.night.state = .closing) :
    expireCount .grace s = s.setNight { s.night with grace := .stopped, graceDue := true } := by
  simp only [expireCount, closing, BEq.rfl, Bool.or_true]

theorem expireCount_grace_only (h : s.replica.night.state ≠ .closing) :
    expireCount .grace s = s.setNight { s.night with grace := .stopped } := by
  simp only [expireCount, beq_eq_false_iff_ne.mpr h, Bool.or_false]

/-! ### The command (R84, R85) -/

theorem exec_nightCountExpiry (runs : (s.night.count c).isRunning = true) :
    exec (.nightCountExpiry c) s = .next (workStep (expireCount c s)) := congrArg Host.Outcome.next (if_pos runs)

/-- R84, R85: the expiry that leaves the Night Unit with a step wanted places it. -/
theorem exec_nightCountExpiry_places (runs : (s.night.count c).isRunning = true)
    (expired : expireCount c s = s.setNight u) (sync : s.InSync) (idle : s.slot .night = .empty)
    (wanted : (s.setNight u).wantedStep = some (f, t)) : exec (.nightCountExpiry c) s =
      .next ((s.setNight u).setSlot .night (fresh (stepBody s.replica.night f t))) := by
  rw [exec_nightCountExpiry runs, expired, workStep_places (s := s.setNight u) sync idle wanted]
  rfl

/-- R84, R85: the expiry that leaves it with none, or outside IN_SYNC, places nothing. -/
theorem exec_nightCountExpiry_still (runs : (s.night.count c).isRunning = true)
    (expired : expireCount c s = s.setNight u)
    (still : s.member.state ≠ .inSync ∨ (s.slot .night = .empty ∧ (s.setNight u).wantedStep = none)) :
    exec (.nightCountExpiry c) s = .next (s.setNight u) := by
  rw [exec_nightCountExpiry runs, expired, workStep_still (s := s.setNight u) still]

/-- Settles O38: the flag each count sets, and the step that is wanted with it. -/
theorem nightCountExpirySetsFlagAndStep : Obligations.NightCountExpirySetsFlagAndStep := by
  intro s
  refine ⟨fun runs sync idle allowed => ?_, fun runs sync idle early pending => ?_, fun runs sync idle closing => ?_,
    fun out => ⟨fun runs allowed => ?_, fun runs pending => ?_, fun runs closing => ?_⟩,
    fun runs held from_pending still => ?_,
    fun still => ⟨fun runs other not_held => ?_, fun runs other other' other'' => ?_, fun runs other => ?_⟩⟩
  · exact ⟨_, exec_nightCountExpiry_places runs (expireCount_deadline_due (deadlineAllowed_iff.mpr allowed)) sync idle
      (wantedStep_deadline rfl allowed), rfl, rfl, slot_setSlot_self .., rfl⟩
  · exact ⟨_, exec_nightCountExpiry_places runs (expireCount_start_due (startAllowed_iff.mpr (.inl pending))) sync idle
      (wantedStep_start early rfl pending), rfl, rfl, slot_setSlot_self .., rfl⟩
  · exact ⟨_, exec_nightCountExpiry_places runs (expireCount_grace_due closing) sync idle
      (wantedStep_grace rfl closing), rfl, rfl, slot_setSlot_self .., rfl⟩
  · exact exec_nightCountExpiry_still runs (expireCount_deadline_due (deadlineAllowed_iff.mpr allowed)) (.inl out)
  · exact exec_nightCountExpiry_still runs (expireCount_start_due (startAllowed_iff.mpr (.inl pending))) (.inl out)
  · exact exec_nightCountExpiry_still runs (expireCount_grace_due closing) (.inl out)
  · have no_step (early : s.night.deadlineDue = false) :
        (s.setNight { s.night with start := .stopped, startDue := true }).wantedStep = none :=
      wantedStep_eq_none early (fun _ pending => nomatch held.symm.trans pending)
        fun _ closing => nomatch held.symm.trans closing
    exact exec_nightCountExpiry_still runs (expireCount_start_due (startAllowed_iff.mpr (.inr ⟨held, from_pending⟩)))
      (still.imp_right fun ⟨idle, early⟩ => ⟨idle, no_step early⟩)
  · have not_allowed : ¬ startAllowed s.replica.night = true := by
      rw [startAllowed_iff]
      exact fun allowed => allowed.elim other not_held
    exact exec_nightCountExpiry_still runs (expireCount_start_only not_allowed)
      (still.imp_right fun ⟨idle, start, deadline, grace⟩ => ⟨idle, wantedStep_none_due start deadline grace⟩)
  · have not_allowed : ¬ deadlineAllowed s.replica.night = true := by
      rw [deadlineAllowed_iff]
      exact fun allowed => allowed.elim other fun allowed => allowed.elim other' other''
    exact exec_nightCountExpiry_still runs (expireCount_deadline_only not_allowed)
      (still.imp_right fun ⟨idle, start, deadline, grace⟩ => ⟨idle, wantedStep_none_due start deadline grace⟩)
  · exact exec_nightCountExpiry_still runs (expireCount_grace_only other)
      (still.imp_right fun ⟨idle, start, deadline, grace⟩ => ⟨idle, wantedStep_none_due start deadline grace⟩)

end Sys2Proof.Machine
end

