-- ==== Sys2Proof/Proofs/OrderMessages.lean ====
section
/-! PROOFS. How an order message is checked and relayed (R71, R73, R75, R76): O37. -/

namespace Sys2Proof.Machine

variable {s : State} {m : List Byte} {reason : RejectReason} {a : OrderAction} {act : Nat}

/-! ### Action codes (10.6) -/

/-- 10.6: the code of an action. -/
def OrderAction.code : OrderAction → Byte
  | .new => 1
  | .hold => 2
  | .resume => 3
  | .abort => 4

@[simp] theorem OrderAction.ofCode_code (a : OrderAction) : OrderAction.ofCode a.code = some a := by cases a <;> rfl

/-- 10.6: a code of 0 or above 4 names no action. -/
theorem OrderAction.ofCode_eq_none {c : Byte} (h : c.toNat = 0 ∨ 4 < c.toNat) : OrderAction.ofCode c = none := by
  have other : c ≠ 1 ∧ c ≠ 2 ∧ c ≠ 3 ∧ c ≠ 4 := by bv_omega
  simp only [OrderAction.ofCode, other, if_false]

/-- 10.6: any other code is an action's own. -/
theorem OrderAction.exists_code_eq {c : Byte} (h : ¬ (c.toNat = 0 ∨ 4 < c.toNat)) : ∃ a : OrderAction, c = a.code := by
  have one_of_four : c = 1 ∨ c = 2 ∨ c = 3 ∨ c = 4 := by bv_omega
  rcases one_of_four with rfl | rfl | rfl | rfl
  · exact ⟨.new, rfl⟩
  · exact ⟨.hold, rfl⟩
  · exact ⟨.resume, rfl⟩
  · exact ⟨.abort, rfl⟩

theorem OrderAction.eq_code_of_ofCode {c : Byte} (h : OrderAction.ofCode c = some a) : c = a.code := by
  by_cases unnamed : c.toNat = 0 ∨ 4 < c.toNat
  · rw [ofCode_eq_none unnamed] at h
    cases h
  · obtain ⟨own, rfl⟩ := exists_code_eq unnamed
    rw [ofCode_code] at h
    exact congrArg code (Option.some.inj h)

/-! ### The tests (R73) -/

/-- R75: the reasons of tests 1 to 3, which leave the last id as it is. -/
abbrev RejectReason.AboutForm (reason : RejectReason) : Prop :=
  reason = .badSync ∨ reason = .badLength ∨ reason = .badCheck

/-- R73: the reason of the first test that fails; NONE where all pass. -/
def State.judge (s : State) (m : List Byte) : RejectReason :=
  match formTests m with
  | some reason => reason
  | none =>
    match s.contentTests m with
    | .error reason => reason
    | .ok _ => .none

/-- R73: tests 1 to 3 with the check spelled out (R179). -/
theorem formTests_eq (m : List Byte) : formTests m =
    if m.length < 2 ∨ byteAt m 0 ≠ 0xB5 ∨ byteAt m 1 ≠ 0x4E then some .badSync
    else if m.length ≠ 21 then some .badLength
    else if crc ((m.drop 2).take 17) ≠ be16 (byteAt m 19) (byteAt m 20) then some .badCheck
    else none := by
  simp only [formTests, messageCheckOk, beq_eq_false_iff_ne]
  rfl

theorem formTests_aboutForm (h : formTests m = some reason) : reason.AboutForm := by
  unfold formTests at h
  split_ifs at h <;> cases h
  · exact .inl rfl
  · exact .inr (.inl rfl)
  · exact .inr (.inr rfl)

/-- R73: a message that passes tests 1 to 3 has its 21 bytes. -/
theorem length_of_formTests (h : formTests m = none) : m.length = 21 := by
  unfold formTests at h
  split_ifs at h with _ long
  exact not_not.mp long

/-- R73: the tests by action in one chain, with what comes after them where they pass. -/
theorem actionTests_getD (n : NightRecord) (o : OrderMsg) (last : RejectReason) (is_act : act = o.action.code.toNat) :
    (actionTests n o).getD last =
      if act = 1 ∧ newer o.id n.id = false then .notNewer
      else if act = 1 ∧ n.state ≠ .idle ∧ n.state ≠ .ended then .nightActive
      else if act = 1 ∧ (720 < o.start.toNat ∨ o.deadline.toNat = 0 ∨ 900 < o.deadline.toNat
        ∨ o.deadline.toNat ≤ o.start.toNat ∨ 120 < o.grace.toNat) then .range
      else if act ≠ 1 ∧ o.id ≠ n.id then .wrongId
      else if (act = 2 ∧ n.state ≠ .pending ∧ n.state ≠ .running) ∨ (act = 3 ∧ n.state ≠ .held)
        ∨ (act = 4 ∧ (n.state = .idle ∨ n.state = .ended)) then .wrongState
      else last := by
  simp only [← minutesInRange_eq_false_iff]
  obtain ⟨id, action, image, start, deadline, grace, capacities⟩ := o
  subst is_act
  cases action with
  | new => simp [actionTests, OrderAction.code, apply_ite (Option.getD · last)]
  | hold => simp [actionTests, OrderAction.code, apply_ite (Option.getD · last)]
  | resume => simp [actionTests, OrderAction.code, apply_ite (Option.getD · last)]
  | abort => simp [actionTests, OrderAction.code, apply_ite (Option.getD · last)]

theorem actionTests_ne_none (n : NightRecord) (o : OrderMsg) (h : actionTests n o = some reason) :
    reason ≠ .none ∧ ¬ reason.AboutForm := by
  unfold actionTests at h
  split at h <;> split_ifs at h <;> cases h <;> decide

/-- R73, tests 4 to 8: one of their own reasons, or the message with its action, where the order slot is EMPTY. -/
theorem contentTests_cases (s : State) (m : List Byte) :
    (∃ reason, s.contentTests m = .error reason ∧ reason ≠ .none ∧ ¬ reason.AboutForm)
      ∨ ∃ a, s.contentTests m = .ok (readOrder m a) ∧ byteAt m 6 = a.code ∧ s.slot .order = .empty := by
  unfold State.contentTests
  split
  · exact .inl ⟨_, rfl, by decide⟩
  split
  · exact .inl ⟨_, rfl, by decide⟩
  split
  · exact .inl ⟨_, rfl, by decide⟩
  next a named =>
  split
  next reason failed => exact .inl ⟨_, rfl, actionTests_ne_none _ _ failed⟩
  split
  next idle => exact .inr ⟨a, rfl, OrderAction.eq_code_of_ofCode named, idle⟩
  · exact .inl ⟨_, rfl, by decide⟩

theorem judge_of_formTests (h : formTests m = some reason) : s.judge m = reason := by
  rw [State.judge, h]

theorem judge_of_contentTests (form : formTests m = none) (h : s.contentTests m = .error reason) :
    s.judge m = reason := by
  rw [State.judge, form, h]

/-- R73, tests 7 and 8: the tests by action, then the order slot. -/
theorem judge_of_action (form : formTests m = none) (row : wordAt m 2 = s.cfg.rowTag) (sync : s.member.state = .inSync)
    (named : byteAt m 6 = a.code) : s.judge m =
      (actionTests s.replica.night (readOrder m a)).getD (if s.slot .order ≠ .empty then .busy else .none) := by
  simp only [State.judge, form, State.contentTests, row, sync, named, OrderAction.ofCode_code, ne_eq, not_true_eq_false,
    if_false, ite_not]
  cases actionTests s.replica.night (readOrder m a) with
  | some reason => rfl
  | none => by_cases idle : s.slot .order = .empty <;> simp [idle]

/-- R73: tests 1 to 3, and what the message is judged to be where they pass. -/
theorem judge_eq_formTests {last : RejectReason} (passed : formTests m = none → s.judge m = last) : s.judge m =
    if m.length < 2 ∨ byteAt m 0 ≠ 0xB5 ∨ byteAt m 1 ≠ 0x4E then .badSync
    else if m.length ≠ 21 then .badLength
    else if crc ((m.drop 2).take 17) ≠ be16 (byteAt m 19) (byteAt m 20) then .badCheck
    else last := by
  have form := formTests_eq m
  split_ifs at form ⊢
  · exact judge_of_formTests form
  · exact judge_of_formTests form
  · exact judge_of_formTests form
  · exact passed form

/-- R73: tests 4 to 6, and what the message is judged to be where they pass. -/
theorem judge_eq_contentTests {last : RejectReason} (form : formTests m = none) (is_act : act = (byteAt m 6).toNat)
    (passed : ∀ a : OrderAction, byteAt m 6 = a.code → wordAt m 2 = s.cfg.rowTag → s.member.state = .inSync →
      s.judge m = last) : s.judge m =
    if wordAt m 2 ≠ s.cfg.rowTag then .wrongRow
    else if s.member.state ≠ .inSync then .notSynced
    else if act = 0 ∨ 4 < act then .badAction
    else last := by
  subst is_act
  split_ifs with other out unnamed
  · exact judge_of_contentTests form (if_pos other)
  · exact judge_of_contentTests form ((if_neg other).trans (if_pos out))
  · refine judge_of_contentTests form ((if_neg other).trans ((if_neg out).trans ?_))
    rw [OrderAction.ofCode_eq_none unnamed]
  · obtain ⟨a, named⟩ := OrderAction.exists_code_eq unnamed
    exact passed a named (not_not.mp other) (not_not.mp out)

/-! ### A message that has ended (R73, R75, R76) -/

/-- R75: a rejection writes the reason and, past the check, the last id. -/
theorem checkMessage_rejected (judged : s.judge m = reason) (fails : reason ≠ .none) : checkMessage m s =
    s.setNight { s.night with
      rejected := s.night.rejected + 1, lastReason := reason
      lastId := if reason.AboutForm then s.night.lastId else messageId m } := by
  cases form : formTests m with
  | some faulty =>
    obtain rfl : faulty = reason := (judge_of_formTests form).symm.trans judged
    rw [checkMessage, form, if_pos (formTests_aboutForm form)]
    rfl
  | none =>
    have tests (u : NightUnit) : (s.setNight u).contentTests m = s.contentTests m := rfl
    obtain ⟨own, answer, -, not_form⟩ | ⟨a, passes, -⟩ := contentTests_cases s m
    · obtain rfl : own = reason := (judge_of_contentTests form answer).symm.trans judged
      simp only [checkMessage, form, tests, answer, if_neg not_form]
      rfl
    · rw [State.judge, form, passes] at judged
      exact absurd judged.symm fails

/-- R75, R76: an accepted message has its 21 bytes and the order slot EMPTY; its relay is placed. -/
theorem checkMessage_accepted (judged : s.judge m = .none) : ∃ a : OrderAction, byteAt m 6 = a.code ∧ m.length = 21
    ∧ checkMessage m s = (s.setNight { s.night with
        lastId := messageId m, accepted := s.night.accepted + 1, relay := some (readOrder m a) }).setSlot .order
          (fresh (relayBody s.replica.night (readOrder m a))) := by
  cases form : formTests m with
  | some faulty =>
    obtain rfl : faulty = .none := (judge_of_formTests form).symm.trans judged
    exact absurd (formTests_aboutForm form) (by decide)
  | none =>
    have tests (u : NightUnit) : (s.setNight u).contentTests m = s.contentTests m := rfl
    obtain ⟨own, answer, fails, -⟩ | ⟨a, passes, named, idle⟩ := contentTests_cases s m
    · exact absurd ((judge_of_contentTests form answer).symm.trans judged) fails
    · refine ⟨a, named, length_of_formTests form, ?_⟩
      simp only [checkMessage, form, tests, passes]
      exact place_empty _ idle

/-- R76: the relay of a message by its action's code. -/
theorem relayBody_eq (n : NightRecord) (m : List Byte) (is_act : act = a.code.toNat) :
    relayBody n (readOrder m a) =
      if act = 1 then
        .order (messageId m) (be32 (byteAt m 7) (byteAt m 8) (byteAt m 9) (byteAt m 10)) (wordAt m 11) (wordAt m 13)
          (byteAt m 15) (byteAt m 16) (byteAt m 17) (byteAt m 18)
      else if act = 2 then .night (messageId m) 2 n.state.code 3
      else if act = 3 then .night (messageId m) 3 3 n.heldFrom.state.code
      else .night (messageId m) 4 n.state.code 5 := by
  subst is_act
  cases a with
  | new => rfl
  | hold => rfl
  | resume => rfl
  | abort => rfl

/-! ### The command (R71) -/

theorem orderReceiving_eq_false (h : s.member.state = .loading ∨ s.member.state = .unconfigured) :
    s.orderReceiving = false := by
  rcases h with h | h <;> simp [State.orderReceiving, State.marksAllowed, h]

theorem exec_orderMessage_idle (line : LineBytes) (h : s.orderReceiving = false) :
    exec (.orderMessage line) s = .next s :=
  congrArg Host.Outcome.next (if_neg fun both => Bool.false_ne_true (h.symm.trans both.1))

/-- R71, R73: bytes that began after a silence are kept and checked as a message. -/
theorem exec_orderMessage_checked (receives : s.orderReceiving = true) (some_bytes : m ≠ []) :
    exec (.orderMessage ⟨true, m⟩) s = .next (checkMessage m (receiveMessage m (sawSilence s))) :=
  congrArg Host.Outcome.next (if_pos ⟨receives, some_bytes⟩)

/-- R71: bytes that did not are no message, and end in the first silence. -/
theorem exec_orderMessage_cut (receives : s.orderReceiving = true) (some_bytes : m ≠ []) :
    exec (.orderMessage ⟨false, m⟩) s = .next (s.setNight { s.night with awaitsSilence := false }) :=
  congrArg Host.Outcome.next (if_pos ⟨receives, some_bytes⟩)

theorem judge_received (s : State) (m : List Byte) : (receiveMessage m (sawSilence s)).judge m = s.judge m := rfl

/-- Settles O37: the chain of tests is State.judge, taken test by test. -/
theorem orderMessageCheckedAndRelayed : Obligations.OrderMessageCheckedAndRelayed := by
  refine ⟨fun s line idle => exec_orderMessage_idle line (orderReceiving_eq_false idle), ?_⟩
  intro s m id n act start deadline reason receives some_bytes is_id is_night is_act is_start is_deadline is_reason
  subst is_id is_night is_start is_deadline
  have judged : (receiveMessage m (sawSilence s)).judge m = reason := by
    rw [judge_received, is_reason]
    exact judge_eq_formTests fun form => judge_eq_contentTests form is_act fun a named row sync =>
      (judge_of_action form row sync named).trans (actionTests_getD s.replica.night (readOrder m a) _
        (is_act.trans (congrArg BitVec.toNat named)))
  refine ⟨fun fails => ?_, fun accepts => ?_, exec_orderMessage_cut receives some_bytes⟩
  · rw [exec_orderMessage_checked receives some_bytes, checkMessage_rejected judged fails]
    rfl
  · subst accepts
    obtain ⟨a, named, length, checked⟩ := checkMessage_accepted judged
    have relay := relayBody_eq s.replica.night m (is_act.trans (congrArg BitVec.toNat named))
    rw [exec_orderMessage_checked receives some_bytes, checked]
    refine ⟨_, rfl, (slot_setSlot_self ..).trans (congrArg fresh relay), rfl, rfl, rfl, rfl,
      List.take_of_length_le length.le, rfl, fun src other => slot_setSlot_ne _ _ other,
      ((Kept.refl s).sawSilence.receiveMessage m).setNight.setSlot, rfl, rfl, rfl, rfl, rfl⟩

end Sys2Proof.Machine
end

