-- ==== Sys2Proof/Proofs/PoolFrames.lean ====
section
/-! PROOFS. How CLAIM, PARK, UNPARK, RELEASE and RECLAIM frames are judged and what they make of the pools (R99, R102,
R103, R105, R108): O14 to O17. -/

namespace Sys2Proof.Machine

variable {r x : Replica} {n m : Nat} {p q : Pool} {code units : Byte}

/-! ### The pool and the units a frame names (10.3) -/

/-- 10.3: a code above 2 names no pool. -/
theorem Pool.ofCode_eq_none (h : 2 < code.toNat) : Pool.ofCode code = none := by
  have other : code ≠ 0 ∧ code ≠ 1 ∧ code ≠ 2 := by bv_omega
  simp only [Pool.ofCode, other, if_false]

theorem poolUnits_code (least : 1 ≤ units.toNat) (most : units.toNat ≤ 15) :
    poolUnits p.code units = some (p, units.toNat) := by
  rw [poolUnits, Pool.ofCode_code]
  exact if_pos ⟨least, most⟩

/-- R99, R102: a bad pool, or units outside 1 to 15. -/
theorem poolUnits_eq_none (h : 2 < code.toNat ∨ units.toNat = 0 ∨ 15 < units.toNat) : poolUnits code units = none := by
  unfold poolUnits
  split
  case h_1 pool named =>
    refine if_neg fun range => ?_
    rcases h with unknown | units_fail
    · rw [Pool.ofCode_eq_none unknown] at named
      cases named
    · omega
  case h_2 => rfl

/-! ### CLAIM (R99) -/

section Claim

variable {u : Nat} {gen : Word16} {flags : Byte}

/-- R32: two changes of an entry that commute there commute on the roster. -/
theorem rosterModify_comm {f g : Entry → Entry} (h : ∀ e, g (f e) = f (g e)) (roster : List Entry) (n : Nat) :
    rosterModify (rosterModify roster n f) n g = rosterModify (rosterModify roster n g) n f := by
  cases n with
  | zero => rfl
  | succ k =>
    simp only [rosterModify, List.modify_modify_eq]
    exact congrArg (roster.modify k) (funext h)

/-- R99: what tests 2 to 6 find of a CLAIM of u units of a pool, in their order. -/
def Replica.claimVerdict (r : Replica) (n : Nat) (p : Pool) (u : Nat) (gen : Word16) (restore : Bool) : Verdict :=
  if ¬ (r.night.state = .running ∨ (restore = true ∧ p = .load)) then .refused
  else if (r.entry n).holds.get p ≠ 0 then .refused
  else if gen ≠ (r.pools.get p).generation then .stale
  else if (r.pools.get p).reserver ≠ 0 ∧ (r.pools.get p).reserver ≠ n
      ∧ (r.pools.get p).capacity < (r.pools.get p).inUse + u + (r.pools.get p).reserved then .blocked
  else if (r.pools.get p).capacity < (r.pools.get p).inUse + u then .short
  else .made

/-- R99: a verdict with the pool and units that it grants. -/
def Verdict.granting (named : Pool × Nat) (v : Verdict) : Verdict × Option (Pool × Nat) :=
  (v, if v = .made then some named else none)

theorem judgeClaim_code {restore : Bool} (least : 1 ≤ units.toNat) (most : units.toNat ≤ 15) :
    judgeClaim r n p.code units gen restore =
      (r.claimVerdict n p units.toNat gen restore).granting (p, units.toNat) := by
  simp only [judgeClaim, poolUnits_code least most, Replica.claimVerdict, not_or, not_le, ne_eq]
  split_ifs <;> rfl

/-- R99, test 1. -/
theorem applyFrame_claim_unnamed (h : 2 < code.toNat ∨ units.toNat = 0 ∨ 15 < units.toNat) :
    applyFrame r n (.claim code units gen flags) = (commonChange r n, .refused) :=
  applyFrame_eq (by simp only [kindPart, judgeClaim, poolUnits_eq_none h])

theorem applyFrame_claim_granted (least : 1 ≤ units.toNat) (most : units.toNat ≤ 15)
    (granted : r.claimVerdict n p units.toNat gen (flags.getLsbD 0) = .made) :
    applyFrame r n (.claim p.code units gen flags) = (commonChange (writeGrant r n p units.toNat) n, .made) :=
  applyFrame_eq (by simp only [kindPart, judgeClaim_code least most, granted, Verdict.granting, if_true])

theorem applyFrame_claim_void (least : 1 ≤ units.toNat) (most : units.toNat ≤ 15)
    (void : r.claimVerdict n p units.toNat gen (flags.getLsbD 0) ≠ .made) :
    applyFrame r n (.claim p.code units gen flags) =
      (commonChange r n, r.claimVerdict n p units.toNat gen (flags.getLsbD 0)) :=
  applyFrame_eq (by simp only [kindPart, judgeClaim_code least most, Verdict.granting, void, if_false])

/-- R99: tests 5 and 6 of a CLAIM that is granted. -/
theorem room_of_claimVerdict {restore : Bool} (granted : r.claimVerdict n p u gen restore = .made) :
    ((r.pools.get p).reserver ≠ 0 ∧ (r.pools.get p).reserver ≠ n →
      (r.pools.get p).inUse + u + (r.pools.get p).reserved ≤ (r.pools.get p).capacity)
    ∧ (r.pools.get p).inUse + u ≤ (r.pools.get p).capacity := by
  unfold Replica.claimVerdict at granted
  split_ifs at granted with night held stale blocked short
  exact ⟨fun others => not_lt.mp fun exceeds => blocked ⟨others.1, others.2, exceeds⟩, not_lt.mp short⟩

/-- R99: the law of the grant: in-use and the units that another station reserves stay within the capacity. -/
theorem grantPool_within {c : PoolRecord}
    (unreserved : c.reserver ≠ 0 ∧ c.reserver ≠ n → c.inUse + u + c.reserved ≤ c.capacity)
    (room : c.inUse + u ≤ c.capacity) :
    (grantPool c n u).inUse
      + (if (grantPool c n u).reserver ≠ 0 ∧ (grantPool c n u).reserver ≠ n then (grantPool c n u).reserved else 0)
      ≤ (grantPool c n u).capacity := by
  by_cases own : c.reserver = n
  · simpa [grantPool, own] using room
  · simp only [grantPool, own, if_false, ne_eq, not_false_eq_true, and_true]
    split
    case isTrue reserves => exact unreserved ⟨reserves, own⟩
    case isFalse => exact room

/-- R99: the holds after a grant and the common change. -/
theorem writeGrant_hold (h1 : 1 ≤ n) (h2 : n ≤ r.roster.length) (p : Pool) (u m : Nat) (q : Pool) :
    ((commonChange (writeGrant r n p u) n).entry m).holds.get q =
      if m = n ∧ q = p then u else (r.entry m).holds.get q := by
  change (commonChange (writeGrant r n p u) n).holdsIn q m = if m = n ∧ q = p then u else r.holdsIn q m
  rw [commonChange_holdsIn, writeGrant]
  by_cases same : q = p
  · subst same
    rw [setHold_holdsIn_self (r := setPool r q _) h1 h2, Function.update_apply]
    simp only [and_true]
    rfl
  · rw [setHold_holdsIn_ne same, if_neg fun both => same both.2]
    rfl

end Claim

/-- Settles O14: the verdict is claimVerdict; R99's grant comes before the common change, and the two write different
fields of the sender's entry. -/
theorem claimJudgedBySixTests : Obligations.ClaimJudgedBySixTests := by
  intro r n pool units flags gen forty h1 h2
  refine ⟨applyFrame_claim_unnamed, ?_⟩
  rintro p _ rfl least most rfl
  by_cases granted : r.claimVerdict n p units.toNat gen (flags.getLsbD 0) = .made
  · rw [applyFrame_claim_granted least most granted]
    obtain ⟨unreserved, room⟩ := room_of_claimVerdict granted
    have record : (commonChange (writeGrant r n p units.toNat) n).pools.get p =
        grantPool (r.pools.get p) n units.toNat := PerPool.get_set_self ..
    refine ⟨granted.symm, fun void => absurd rfl void, fun _ => ⟨_, rfl, rfl, ?_, record, ?_, ?_, ?_⟩⟩
    · exact fun q other => PerPool.get_set_ne _ _ other
    · exact rosterModify_comm (by exact fun _ => rfl) r.roster n
    · exact writeGrant_hold h1 (forty ▸ h2) p units.toNat
    · rw [record]
      exact grantPool_within unreserved room
  · rw [applyFrame_claim_void least most granted]
    exact ⟨rfl, fun _ => rfl, fun made => absurd made granted⟩

/-! ### PARK and UNPARK (R102, R103) -/

/-- R102, test 1. -/
theorem applyFrame_park_unnamed (h : 2 < code.toNat ∨ units.toNat = 0 ∨ 15 < units.toNat) :
    applyFrame r n (.park code units) = (commonChange r n, .refused) :=
  applyFrame_eq (by simp only [kindPart, judgePark, poolUnits_eq_none h])

/-- R102: tests 2 to 4 of a PARK, of which each fails as BUSY. -/
theorem judgePark_code (least : 1 ≤ units.toNat) (most : units.toNat ≤ 15) : judgePark r n p.code units =
    if r.night.state ≠ .running ∨ (r.pools.get p).reserver ≠ 0 ∨ (r.entry n).holds.get p ≠ 0 then (.busy, none)
    else (.made, some (p, units.toNat)) := by
  simp only [judgePark, poolUnits_code least most, ite_or]

theorem applyFrame_park_busy (least : 1 ≤ units.toNat) (most : units.toNat ≤ 15)
    (busy : r.night.state ≠ .running ∨ (r.pools.get p).reserver ≠ 0 ∨ (r.entry n).holds.get p ≠ 0) :
    applyFrame r n (.park p.code units) = (commonChange r n, .busy) :=
  applyFrame_eq (by simp only [kindPart, judgePark_code least most, if_pos busy])

theorem applyFrame_park_placed (least : 1 ≤ units.toNat) (most : units.toNat ≤ 15)
    (free : ¬ (r.night.state ≠ .running ∨ (r.pools.get p).reserver ≠ 0 ∨ (r.entry n).holds.get p ≠ 0)) :
    applyFrame r n (.park p.code units) = (commonChange (writePark r n p units.toNat) n, .made) :=
  applyFrame_eq (by simp only [kindPart, judgePark_code least most, if_neg free])

theorem applyFrame_unpark_void (h : judgeUnpark r n code = none) :
    applyFrame r n (.unpark code) = (commonChange r n, .void) :=
  applyFrame_eq (by simp only [kindPart, h])

theorem applyFrame_unpark_cleared (h : judgeUnpark r n code = some p) : applyFrame r n (.unpark code) =
    (commonChange (setPool r p (clearReservation (r.pools.get p))) n, .made) :=
  applyFrame_eq (by simp only [kindPart, h])

/-- R103: an UNPARK is judged by whether its sender is the pool's reserver. -/
theorem judgeUnpark_code (h1 : 1 ≤ n) : judgeUnpark r n p.code =
    if (r.pools.get p).reserver = n then some p else none := by
  have station : n ≠ 0 := by omega
  simp only [judgeUnpark, Pool.ofCode_code, station, ne_eq, not_false_eq_true, and_true]

theorem judgeUnpark_unnamed (h : 2 < code.toNat) : judgeUnpark r n code = none := by
  simp only [judgeUnpark, Pool.ofCode_eq_none h]

/-- Settles O15: the verdicts are those of judgePark_code and judgeUnpark_code, and each writes one pool record before
the common change. -/
theorem parkAndUnparkRules : Obligations.ParkAndUnparkRules := by
  intro r n p code units _ h1 _
  refine ⟨applyFrame_park_unnamed,
    fun least most => ⟨applyFrame_park_busy least most, fun running free none_held => ?_⟩,
    fun unknown => applyFrame_unpark_void (judgeUnpark_unnamed unknown), fun other => ?_, fun own => ?_⟩
  · have passes : ¬ (r.night.state ≠ .running ∨ (r.pools.get p).reserver ≠ 0 ∨ (r.entry n).holds.get p ≠ 0) := by
      simp [running, free, none_held]
    exact ⟨_, applyFrame_park_placed least most passes, rfl, rfl, fun q other => PerPool.get_set_ne _ _ other,
      PerPool.get_set_self ..⟩
  · exact applyFrame_unpark_void ((judgeUnpark_code h1).trans (if_neg other))
  · have reserved : (r.pools.get p).reserver ≠ 0 := by omega
    refine ⟨_, applyFrame_unpark_cleared ((judgeUnpark_code h1).trans (if_pos own)), rfl, rfl,
      fun q other => PerPool.get_set_ne _ _ other, (PerPool.get_set_self ..).trans ?_⟩
    exact if_neg reserved

/-! ### In-use and the holds (R30) -/

/-- R30: under the law of in-use, in-use covers each station's hold. -/
theorem hold_le_inUse (law : r.inUseLaw) (h1 : 1 ≤ m) (h2 : m ≤ Config.stations) (p : Pool) :
    (r.entry m).holds.get p ≤ (r.pools.get p).inUse := by
  obtain ⟨forty, inUse⟩ := law
  have left := sum_update (r.holdsIn p) 0 h1 h2
  rw [inUse p, holdSum_eq_sum forty]
  change r.holdsIn p m ≤ _
  omega

/-- R105, R108: units that in-use covers are taken from it. -/
theorem giveBack_eq_sub {inUse u : Nat} (h : u ≤ inUse) : giveBack inUse u = inUse - u := if_pos h

/-! ### RELEASE (R105) -/

theorem releasePart_iff {u : Nat} : releasePart r n p u = true ↔ u ≠ 0 ∧ (r.entry n).holds.get p = u := by
  simp [releasePart]

/-- R105: a pool's record with the holds in it. -/
def Replica.inPool (r : Replica) (p : Pool) : PoolRecord × (Nat → Nat) := (r.pools.get p, r.holdsIn p)

theorem commonChange_inPool (r : Replica) (n : Nat) (p : Pool) : (commonChange r n).inPool p = r.inPool p :=
  Prod.ext rfl (commonChange_holdsIn r n p)

/-- R105: what the part of a RELEASE for a pool makes of its record and holds. -/
def releasePool (n u : Nat) (c : PoolRecord × (Nat → Nat)) : PoolRecord × (Nat → Nat) :=
  if u ≠ 0 ∧ c.2 n = u then
    ({ c.1 with inUse := giveBack c.1.inUse u, generation := c.1.generation + 1 }, Function.update c.2 n 0)
  else c

/-- R105: a part of a RELEASE in its own pool, whether it applies or not. -/
theorem writeRelease_inPool_self (h1 : 1 ≤ n) (h2 : n ≤ r.roster.length) (p : Pool) (u : Nat) :
    (writeRelease n p u r).inPool p = releasePool n u (r.inPool p) := by
  by_cases applies : releasePart r n p u = true
  · have exactly : u ≠ 0 ∧ (r.inPool p).2 n = u := releasePart_iff.mp applies
    rw [writeRelease, if_pos applies, releasePool, if_pos exactly]
    exact Prod.ext (PerPool.get_set_self ..) (setHold_holdsIn_self (r := setPool r p _) h1 h2 p 0)
  · have differs : ¬ (u ≠ 0 ∧ (r.inPool p).2 n = u) := mt releasePart_iff.mpr applies
    rw [writeRelease, if_neg applies, releasePool, if_neg differs]

theorem writeRelease_inPool_ne (h : q ≠ p) (n u : Nat) (r : Replica) :
    (writeRelease n p u r).inPool q = r.inPool q :=
  Prod.ext (writeRelease_other h n u r).1 (writeRelease_other h n u r).2

/-- R105: a part of a RELEASE writes neither the night record nor another station's entry. -/
theorem writeRelease_frame (n : Nat) (p : Pool) (u : Nat) (r : Replica) :
    (writeRelease n p u r).night = r.night ∧ ∀ m, m ≠ n → (writeRelease n p u r).entry m = r.entry m := by
  unfold writeRelease
  split
  · exact ⟨rfl, fun m other => rosterEntry_modify_ne r.roster _ other⟩
  · exact ⟨rfl, fun m _ => rfl⟩

/-- R105: the three parts of a RELEASE, one after the other. -/
def writeReleases (n : Nat) (u : PerPool Nat) (r : Replica) : Replica :=
  writeRelease n .feed u.feed (writeRelease n .load u.load (writeRelease n .surge u.surge r))

/-- R105: the parts of a RELEASE do not meet: each changes its own pool, as the RELEASE found it. -/
theorem writeReleases_inPool (h1 : 1 ≤ n) (h2 : n ≤ r.roster.length) (u : PerPool Nat) : ∀ p,
    (writeReleases n u r).inPool p = releasePool n (u.get p) (r.inPool p) := by
  have length_surge := (HeardKept.writeRelease r n .surge u.surge).length
  have length_load := (HeardKept.writeRelease (writeRelease n .surge u.surge r) n .load u.load).length
  unfold writeReleases
  refine Pool.forall_of ?_ ?_ ?_
  · rw [writeRelease_inPool_ne (by decide), writeRelease_inPool_ne (by decide), writeRelease_inPool_self h1 h2]
    rfl
  · rw [writeRelease_inPool_ne (by decide), writeRelease_inPool_self h1 (length_surge ▸ h2),
      writeRelease_inPool_ne (by decide)]
    rfl
  · rw [writeRelease_inPool_self h1 (by rw [length_load, length_surge]; exact h2), writeRelease_inPool_ne (by decide),
      writeRelease_inPool_ne (by decide)]
    rfl

theorem writeReleases_frame (n : Nat) (u : PerPool Nat) (r : Replica) :
    (writeReleases n u r).night = r.night ∧ ∀ m, m ≠ n → (writeReleases n u r).entry m = r.entry m := by
  obtain ⟨night_surge, entry_surge⟩ := writeRelease_frame n .surge u.surge r
  obtain ⟨night_load, entry_load⟩ := writeRelease_frame n .load u.load (writeRelease n .surge u.surge r)
  obtain ⟨night_feed, entry_feed⟩ := writeRelease_frame n .feed u.feed
    (writeRelease n .load u.load (writeRelease n .surge u.surge r))
  exact ⟨night_feed.trans (night_load.trans night_surge),
    fun m other => (entry_feed m other).trans ((entry_load m other).trans (entry_surge m other))⟩

/-- R105: whether some part of a RELEASE applies. -/
def releaseMade (r : Replica) (n : Nat) (u : PerPool Nat) : Bool :=
  releasePart r n .surge u.surge || releasePart r n .load u.load || releasePart r n .feed u.feed

theorem releaseMade_iff {u : PerPool Nat} :
    releaseMade r n u = true ↔ ∃ p, u.get p ≠ 0 ∧ (r.entry n).holds.get p = u.get p := by
  simp only [releaseMade, Bool.or_eq_true, releasePart_iff]
  constructor
  · rintro ((part | part) | part)
    · exact ⟨.surge, part⟩
    · exact ⟨.load, part⟩
    · exact ⟨.feed, part⟩
  · rintro ⟨_ | _ | _, part⟩
    · exact .inl (.inl part)
    · exact .inl (.inr part)
    · exact .inr part

/-- R105: a RELEASE of which no part applies writes nothing. -/
theorem writeReleases_void {u : PerPool Nat} (void : releaseMade r n u = false) : writeReleases n u r = r := by
  simp only [releaseMade, Bool.or_eq_false_iff] at void
  obtain ⟨⟨surge, load⟩, feed⟩ := void
  simp only [writeReleases, writeRelease, surge, load, feed, Bool.false_eq_true, if_false]

theorem applyFrame_release (r : Replica) (n : Nat) (u : PerPool Byte) :
    applyFrame r n (.release u.surge u.load u.feed) = (commonChange (writeReleases n (u.map BitVec.toNat) r) n,
      if releaseMade r n (u.map BitVec.toNat) = true then .made else .void) := by
  refine applyFrame_eq ?_
  by_cases made : releaseMade r n (u.map BitVec.toNat) = true
  · rw [if_pos made]
    exact if_pos made
  · rw [if_neg made, writeReleases_void (Bool.eq_false_iff.mpr made)]
    exact if_neg made

/-- Settles O16: every pool becomes what releasePool makes of it, and in-use covers the hold given back. -/
theorem releaseZeroesExactHolds : Obligations.ReleaseZeroesExactHolds := by
  intro r n units t v law h1 h2 applied
  rw [applyFrame_release] at applied
  obtain ⟨rfl, rfl⟩ := Prod.mk.inj applied
  obtain ⟨night, others⟩ := writeReleases_frame n (units.map BitVec.toNat) r
  have pool (p : Pool) : (commonChange (writeReleases n (units.map BitVec.toNat) r) n).inPool p =
      releasePool n (units.get p).toNat (r.inPool p) := by
    have written := writeReleases_inPool h1 (h2.trans_eq law.1.symm) (units.map BitVec.toNat) p
    rw [PerPool.get_map] at written
    exact (commonChange_inPool _ n p).trans written
  have some_part := releaseMade_iff (r := r) (n := n) (u := units.map BitVec.toNat)
  simp only [PerPool.get_map] at some_part
  refine ⟨night, fun p exactly => ?_, fun p differs => ?_,
    fun m other => (commonChange_entry_ne other).trans (others m other), ?_, fun void => ?_⟩
  · obtain ⟨record, holds⟩ := Prod.ext_iff.mp ((pool p).trans (if_pos exactly))
    have covered := exactly.2 ▸ hold_le_inUse law h1 h2 p
    refine ⟨(congrFun holds n).trans (Function.update_self ..), record.trans ?_⟩
    simp only [Replica.inPool, giveBack_eq_sub covered]
  · obtain ⟨record, holds⟩ := Prod.ext_iff.mp ((pool p).trans (if_neg differs))
    exact ⟨congrFun holds n, record⟩
  · rw [← some_part]
    split
    case isTrue made => exact iff_of_true rfl made
    case isFalse made => exact iff_of_false (by decide) made
  · have none_made : ¬ releaseMade r n (units.map BitVec.toNat) = true := fun made => void (if_pos made)
    exact ⟨if_neg none_made, by rw [writeReleases_void (Bool.eq_false_iff.mpr none_made)]⟩

/-! ### RECLAIM (R108) -/

theorem PerPool.isZero_iff {a : PerPool Nat} : a.isZero = true ↔ ∀ p, a.get p = 0 := by
  simp only [PerPool.isZero, Bool.and_eq_true, beq_iff_eq]
  constructor
  · rintro ⟨⟨surge, load⟩, feed⟩
    exact Pool.forall_of surge load feed
  · exact fun zero => ⟨⟨zero .surge, zero .load⟩, zero .feed⟩

/-- R108, R109: a station holds units, or is a reserver. -/
theorem holdsOrReserves_iff : holdsOrReserves r m = true ↔
    (∃ p, (r.entry m).holds.get p ≠ 0) ∨ ∃ p, (r.pools.get p).reserver = m := by
  have reserves : (∃ p, (r.pools.get p).reserver = m) ↔
      r.pools.surge.reserver = m ∨ r.pools.load.reserver = m ∨ r.pools.feed.reserver = m := by
    constructor
    · rintro ⟨_ | _ | _, own⟩
      · exact .inl own
      · exact .inr (.inl own)
      · exact .inr (.inr own)
    · rintro (own | own | own)
      · exact ⟨.surge, own⟩
      · exact ⟨.load, own⟩
      · exact ⟨.feed, own⟩
  have holds : (r.entry m).holds.isZero = false ↔ ∃ p, (r.entry m).holds.get p ≠ 0 := by
    rw [← Bool.not_eq_true, PerPool.isZero_iff, not_forall]
  simp only [holdsOrReserves, Bool.or_eq_true, Bool.not_eq_true', beq_iff_eq, holds, reserves, or_assoc]

theorem reclaimMade_iff {target heard : Byte} : reclaimMade r n target heard = true ↔
    1 ≤ target.toNat ∧ target.toNat ≤ 40 ∧ target.toNat ≠ n ∧ (r.entry target.toNat).heard = heard
      ∧ ((∃ p, (r.entry target.toNat).holds.get p ≠ 0) ∨ ∃ p, (r.pools.get p).reserver = target.toNat) := by
  simp only [reclaimMade, Bool.and_eq_true, decide_eq_true_eq, bne_iff_ne, beq_iff_eq, holdsOrReserves_iff, and_assoc]
  exact Iff.rfl

theorem applyFrame_reclaim_stands {target heard : Byte} (stands : reclaimMade r n target heard = true) :
    applyFrame r n (.reclaim target heard) = (commonChange (writeReclaim r target.toNat) n, .made) :=
  applyFrame_eq (if_pos stands)

theorem applyFrame_reclaim_void {target heard : Byte} (void : ¬ reclaimMade r n target heard = true) :
    applyFrame r n (.reclaim target heard) = (commonChange r n, .void) :=
  applyFrame_eq (if_neg void)

/-- R108: what a RECLAIM leaves of a pool whose in-use covers the hold given back. -/
theorem reclaimPool_eq {c : PoolRecord} {u : Nat} (covered : u ≤ c.inUse) : reclaimPool m u c =
    if u ≠ 0 ∨ c.reserver = m then
      { capacity := c.capacity, inUse := c.inUse - u, generation := c.generation + 1
        reserver := if c.reserver = m then 0 else c.reserver
        reserved := if c.reserver = m then 0 else c.reserved }
    else c := by
  rw [reclaimPool, giveBack_eq_sub covered]

/-- Settles O17: the conditions are those of reclaimMade, and the common change writes the sender's entry alone. -/
theorem reclaimStripsSilentTarget : Obligations.ReclaimStripsSilentTarget := by
  intro r n target heard t v law h1 h2 applied
  rw [← reclaimMade_iff]
  refine ⟨fun fails => ?_, fun stands => ?_⟩
  · obtain ⟨rfl, rfl⟩ := Prod.mk.inj ((applyFrame_reclaim_void fails).symm.trans applied)
    exact ⟨rfl, rfl⟩
  · obtain ⟨rfl, rfl⟩ := Prod.mk.inj ((applyFrame_reclaim_stands stands).symm.trans applied)
    obtain ⟨least, most, other, -, -⟩ := reclaimMade_iff.mp stands
    refine ⟨rfl, rfl, ?_, fun m not_sender not_target => ?_, fun p => ?_⟩
    · exact (commonChange_entry_ne other).trans (rosterEntry_modify_self r.roster _ _ least (most.trans_eq law.1.symm))
    · exact (commonChange_entry_ne not_sender).trans (rosterEntry_modify_ne r.roster _ not_target)
    · exact (PerPool.get_ofFun _ p).trans (reclaimPool_eq (hold_le_inUse law least most p))

end Sys2Proof.Machine
end

