-- ==== Sys2Proof/Proofs/ClaimTimers.lean ====
section
/-! PROOFS. What a re-reading of the request's pool does (R93, R95, R97), and the claim age, the keep timer and the
silence watch (R35, R107, R109): O42 and O43. -/

namespace Sys2Proof.Machine

variable {s : State} {r : Request} {q : Queued} {f : Word16} {cleared : Bool} {ages : List Nat} {n m : Nat}

/-! ### The table of a re-reading (R95) -/

/-- R95, line 1. -/
theorem reading_held (held : s.shownHold r.pool ≠ 0) : s.reading r = .held := if_pos held

/-- R95: the request's night allows it a CLAIM, and there is room. -/
theorem reading_claims (none_held : s.shownHold r.pool = 0)
    (night : s.replica.night.state = .running ∨ r.restore = true) (room : (r.units : Int) ≤ s.freeUnits r.pool) :
    s.reading r = .claims := by
  have allowed : ¬ (s.replica.night.state ≠ .running ∧ r.restore = false) := by
    rintro ⟨still, ordinary⟩
    rcases night with running | restore
    · exact still running
    · exact Bool.false_ne_true (ordinary.symm.trans restore)
  rw [State.reading, if_neg (not_not.mpr none_held), if_neg allowed, if_pos room]

/-- R95: no room, and patience enough to reserve a pool that nobody has reserved. -/
theorem reading_parks (none_held : s.shownHold r.pool = 0) (running : s.replica.night.state = .running)
    (full : s.freeUnits r.pool < r.units) (patience : 12 ≤ r.patience)
    (unreserved : (s.replica.pools.get r.pool).reserver = 0) : s.reading r = .parks := by
  rw [State.reading, if_neg (not_not.mpr none_held), if_neg fun still => still.1 running, if_neg (not_le.mpr full)]
  exact if_pos ⟨patience, unreserved, running⟩

/-- R95: the last line, and the line of a night that does not run. -/
theorem reading_waits (none_held : s.shownHold r.pool = 0)
    (waits : (s.replica.night.state ≠ .running ∧ (r.restore = false ∨ s.freeUnits r.pool < r.units))
      ∨ (s.replica.night.state = .running ∧ s.freeUnits r.pool < r.units
        ∧ (r.patience < 12 ∨ (s.replica.pools.get r.pool).reserver ≠ 0))) : s.reading r = .waits := by
  rw [State.reading, if_neg (not_not.mpr none_held)]
  by_cases suspended : s.replica.night.state ≠ .running ∧ r.restore = false
  · exact if_pos suspended
  · have full : s.freeUnits r.pool < r.units := by
      obtain ⟨still, ordinary | full⟩ | ⟨-, full, -⟩ := waits
      · exact absurd ⟨still, ordinary⟩ suspended
      · exact full
      · exact full
    rw [if_neg suspended, if_neg (not_le.mpr full)]
    refine if_neg ?_
    rintro ⟨patience, unreserved, running⟩
    obtain ⟨still, -⟩ | ⟨-, -, impatient | reserved⟩ := waits
    · exact still running
    · exact absurd patience (not_le.mpr impatient)
    · exact reserved unreserved

/-! ### What each line does (R95, R97) -/

/-- R95: what a re-reading does by the line it finds. -/
def Reading.act (r : Request) (s : State) : Reading → State × Bool
  | .held => (grantRequest r.pool (s.shownHold r.pool) s, true)
  | .waits => (setRequestState .parked s, false)
  | .claims => (placeClaim r s, false)
  | .parks => (placePark r s, false)

theorem requestQueued_empty (empty : s.slot .claim = .empty) : s.requestQueued = false := by
  simp [State.requestQueued, empty, Slot.body]

theorem reread_eq (sync : s.InSync) (request : s.claim.request = some r) (ungranted : r.state ≠ .granted)
    (empty : s.slot .claim = .empty) : reread s = (s.reading r).act r s := by
  have free : ¬ (s.member.state ≠ .inSync ∨ r.state = .granted ∨ s.requestQueued = true) := by
    simp [sync, ungranted, requestQueued_empty empty]
  unfold reread
  rw [request]
  dsimp only
  rw [if_neg free]
  cases s.reading r <;> rfl

/-- R107: the keep timer alone follows the record. -/
theorem keepSync_eq (s : State) : ∃ k, keepSync s = s.setClaim { s.claim with keep := k } := by
  unfold keepSync
  split
  · split
    · exact ⟨s.claim.keep, rfl⟩
    · exact ⟨_, rfl⟩
  · exact ⟨_, rfl⟩

/-- R95, line 1, R101: the hold is in the record and the request is GRANTED; the keep timer follows. -/
theorem grantRequest_eq (request : s.claim.request = some r) (p : Pool) (units : Nat) : ∃ k, grantRequest p units s =
    s.setClaim { s.claim with
      ownHolds := s.claim.ownHolds.set p units, keep := k
      request := some { r with state := .granted, patience := 0 } } := by
  obtain ⟨k, kept⟩ := keepSync_eq (s.setClaim { s.claim with ownHolds := s.claim.ownHolds.set p units })
  refine ⟨k, ?_⟩
  rw [grantRequest, recordHold, kept, setGranted]
  simp only [setClaim_claim, request]
  rfl

theorem setRequestState_eq (request : s.claim.request = some r) (st : RequestState) :
    setRequestState st s = s.setClaim { s.claim with request := some { r with state := st } } := by
  rw [setRequestState, request]
  rfl

/-- R95, R97: a CLAIM in the EMPTY slot, with its age timer started. -/
theorem placeClaim_empty (request : s.claim.request = some r) (empty : s.slot .claim = .empty) : placeClaim r s =
    (s.setSlot .claim (fresh (s.claimBody r))).setClaim { s.claim with
      request := some { r with state := .ready }, claimAge := .running 10000, ageExpired := false } := by
  unfold placeClaim
  rw [empty]
  dsimp only
  rw [setRequestState_eq (s := s.setSlot .claim (fresh (s.claimBody r))) request]
  rfl

/-- R95: a PARK in the EMPTY slot. -/
theorem placePark_empty (request : s.claim.request = some r) (empty : s.slot .claim = .empty) : placePark r s =
    (s.setSlot .claim (fresh (parkBody r))).setClaim { s.claim with
      request := some { r with state := .reserving } } := by
  unfold placePark
  rw [empty]
  dsimp only
  rw [setRequestState_eq (s := s.setSlot .claim (fresh (parkBody r))) request]
  rfl

/-- Settles O42: each clause is the line of the table that its premises select, and what that line does. -/
theorem rereadingFollowsTheTable : Obligations.RereadingFollowsTheTable := by
  rintro s r _ _ sync request ungranted empty rfl rfl
  have by_line := reread_eq sync request ungranted empty
  refine ⟨fun held => ?_, fun none_held night room => ?_, fun none_held running full patience unreserved => ?_,
    fun none_held waits => ?_⟩
  · obtain ⟨k, granted⟩ := grantRequest_eq request r.pool (s.shownHold r.pool)
    rw [by_line, reading_held held, Reading.act, granted]
    exact ⟨rfl, rfl, PerPool.get_set_self .., empty⟩
  · rw [by_line, reading_claims none_held night room, Reading.act, placeClaim_empty request empty]
    exact ⟨rfl, rfl, slot_setSlot_self ..⟩
  · rw [by_line, reading_parks none_held running full patience unreserved, Reading.act,
      placePark_empty request empty]
    exact ⟨rfl, slot_setSlot_self ..⟩
  · rw [by_line, reading_waits none_held waits]
    exact ⟨rfl, setRequestState_eq request .parked⟩

/-! ### The claim age (R97) -/

theorem tryUnpark_none_due (none_due : s.claim.unparkDue = PerPool.all false) : tryUnpark s = s := by
  have due : s.unparksDue = PerPool.all false := by
    simp only [State.unparksDue, none_due, PerPool.get_all, Bool.false_and]
    rfl
  have same : s.setClaim { s.claim with unparkDue := PerPool.all false } = s := by rw [← none_due]; rfl
  unfold tryUnpark
  dsimp only
  rw [due, same]
  split
  · rfl
  · split
    case h_1 first => cases first
    case h_2 => rfl

theorem exec_claimAgeExpiry (runs : s.claim.claimAge.isRunning = true) :
    exec .claimAgeExpiry s = .next (claimAgeOver s) := congrArg Host.Outcome.next (if_pos runs)

theorem claimAgeOver_sending (h : s.slot .claim = .sending q f cleared) :
    claimAgeOver s = s.setClaim { s.claim with claimAge := .stopped, ageExpired := true } := by
  rw [claimAgeOver, h]

/-- R97: the withdrawn CLAIM leaves the slot EMPTY and its age timer stopped. -/
def claimWithdrawn (s : State) : State := stopClaimAge (s.setSlot .claim .empty)

theorem claimWithdrawn_slot (s : State) : (claimWithdrawn s).slot .claim = .empty := slot_setSlot_self ..

theorem claimAgeOver_waiting (h : s.slot .claim = .waiting q) : claimAgeOver s = claimEmptied (claimWithdrawn s) := by
  unfold claimAgeOver
  rw [h]
  exact congrArg (fun t => claimEmptied (stopClaimAge t)) (withdraw_waiting h)

/-- R97: the re-reading after a withdrawal places a CLAIM where the pool still has room. -/
theorem claimEmptied_claims (sync : s.InSync) (request : s.claim.request = some r) (ungranted : r.state ≠ .granted)
    (empty : s.slot .claim = .empty) (none_due : s.claim.unparkDue = PerPool.all false)
    (claims : s.reading r = .claims) : claimEmptied s = placeClaim r s := by
  have placed : reread s = (placeClaim r s, false) := by
    rw [reread_eq sync request ungranted empty, claims, Reading.act]
  rw [claimEmptied, tryUnpark_none_due none_due, rereadTold, placed]
  rfl

/-! ### The keep timer (R107, R125) -/

theorem marksAllowed_eq_true (loaded : s.member.state ≠ .loading) (configured : s.member.state ≠ .unconfigured) :
    s.marksAllowed = true := by
  unfold State.marksAllowed
  split
  case h_1 state => exact absurd state loaded
  case h_2 state => exact absurd state configured
  all_goals rfl

theorem keepMark_empty (allowed : s.marksAllowed = true) (empty : s.slot .mark = .empty) :
    keepMark s = s.setSlot .mark (fresh s.markBody) := by
  rw [keepMark, if_pos allowed, putMark, empty]

theorem exec_keepTimerExpiry (runs : s.claim.keep.isRunning = true) :
    exec .keepTimerExpiry s = .next (keepMark (s.setClaim { s.claim with keep := .running 30000 })) :=
  congrArg Host.Outcome.next (if_pos runs)

/-- R107, R125: the keep MARK carries the current values. -/
theorem exec_keepTimerExpiry_places (runs : s.claim.keep.isRunning = true) (allowed : s.marksAllowed = true)
    (empty : s.slot .mark = .empty) : exec .keepTimerExpiry s =
      .next ((s.setClaim { s.claim with keep := .running 30000 }).setSlot .mark (fresh s.markBody)) :=
  (exec_keepTimerExpiry runs).trans (congrArg Host.Outcome.next (keepMark_empty allowed empty))

/-! ### The last-heard ages (R35) -/

theorem heardMs_mem (h1 : 1 ≤ n) (h2 : n ≤ ages.length) : heardMs ages n ∈ ages := by
  obtain ⟨k, rfl⟩ := Nat.exists_eq_add_of_le' h1
  have known : k < ages.length := h2
  rw [heardMs, List.getD_eq_getElem _ _ known]
  exact List.getElem_mem known

/-- R35: every age is that of a station number. -/
theorem exists_heardMs_eq {age : Nat} (h : age ∈ ages) : ∃ m, heardMs ages m = age := by
  obtain ⟨k, known, rfl⟩ := List.mem_iff_getElem.mp h
  exact ⟨k + 1, List.getD_eq_getElem _ _ known⟩

/-- R35: no station's age passes a whole second before the moment that untilSecond gives. -/
theorem untilSecond_le_heardMs (ages : List Nat) (m : Nat) : untilSecond ages ≤ 1000 - heardMs ages m % 1000 := by
  by_cases known : 1 ≤ m ∧ m ≤ ages.length
  · exact untilSecond_le (heardMs_mem known.1 known.2)
  · have unknown : heardMs ages m = 0 := by
      cases m with
      | zero => rfl
      | succ k => exact List.getD_eq_default _ _ (by omega)
    rw [unknown]
    exact Nat.sub_le ..

/-- R35: the first age to pass a whole second is the one furthest into it. -/
theorem le_untilSecond {most : Nat} (h : ∀ age ∈ ages, age % 1000 ≤ most) : 1000 - most ≤ untilSecond ages := by
  have bound : ages.foldr (fun age most => max (age % 1000) most) 0 ≤ most := by
    induction ages with
    | nil => exact Nat.zero_le _
    | cons a rest ih =>
      obtain ⟨first, others⟩ := List.forall_mem_cons.mp h
      exact Nat.max_le.mpr ⟨first, ih others⟩
  exact Nat.sub_le_sub_left bound 1000

/-- R35: the moment is that of the age furthest into a second. -/
theorem untilSecond_eq (furthest : ∀ m, heardMs ages m % 1000 ≤ heardMs ages n % 1000) :
    untilSecond ages = 1000 - heardMs ages n % 1000 := by
  refine Nat.le_antisymm (untilSecond_le_heardMs ages n) (le_untilSecond fun age listed => ?_)
  obtain ⟨m, rfl⟩ := exists_heardMs_eq listed
  exact furthest m

/-- R35: an age's whole seconds at the moment that untilSecond gives. -/
theorem heardAge_passSecond (h1 : 1 ≤ n) (h2 : n ≤ ages.length) : heardAge (passSecond ages) n =
    min (heardMs ages n + untilSecond ages) 65535000 / 1000 :=
  congrArg (· / 1000) (heardMs_ageBy (untilSecond ages) ages n h1 h2)

theorem heardAge_passSecond_furthest (h1 : 1 ≤ n) (h2 : n ≤ ages.length)
    (furthest : ∀ m, heardMs ages m % 1000 ≤ heardMs ages n % 1000) :
    heardAge (passSecond ages) n = min (heardAge ages n + 1) 65535 := by
  rw [heardAge_passSecond h1 h2, untilSecond_eq furthest, heardAge]
  omega

theorem heardAge_passSecond_behind (h1 : 1 ≤ n) (h2 : n ≤ ages.length) (limit : heardMs ages n ≤ 65535000)
    (behind : heardMs ages n % 1000 < heardMs ages m % 1000) : heardAge (passSecond ages) n = heardAge ages n := by
  have moment := untilSecond_le_heardMs ages m
  rw [heardAge_passSecond h1 h2, heardAge]
  omega

/-! ### The silence watch (R109) -/

theorem exec_lastHeardTick (loaded : s.loader.state ≠ .reading) :
    exec .lastHeardTick s = .next (judgeWatch (s.setLastHeard (passSecond s.lastHeard))) :=
  congrArg Host.Outcome.next (if_neg loaded)

theorem judgeWatch_stopped (stopped : s.claim.watching = false) : judgeWatch s = s := if_pos (.inl stopped)

/-- R109: a running watch with the reclaim slot EMPTY places a RECLAIM for the overdue peer it finds. -/
theorem judgeWatch_places (watching : s.claim.watching = true) (sync : s.InSync) (empty : s.slot .reclaim = .empty)
    (peer : s.overduePeer = some n) : judgeWatch s = s.setSlot .reclaim (fresh (s.reclaimBody n)) := by
  simp [judgeWatch, watching, sync, empty, peer]

theorem judgeWatch_none_overdue (empty : s.slot .reclaim = .empty) (none_overdue : s.overduePeer = none) :
    judgeWatch s = s := by
  unfold judgeWatch
  rw [empty, none_overdue]
  exact ite_self s

theorem mem_stationNumbers : n ∈ stationNumbers ↔ 1 ≤ n ∧ n ≤ 40 := by
  simp only [stationNumbers, List.mem_map, List.mem_range, Config.stations]
  constructor
  · rintro ⟨k, below, rfl⟩
    omega
  · rintro ⟨least, most⟩
    exact ⟨n - 1, by omega, by omega⟩

/-- R109: the lowest-numbered station that meets a test. -/
theorem find?_stationNumbers {test : Nat → Bool} (known : 1 ≤ m ∧ m ≤ 40) (meets : test m = true)
    (lowest : ∀ n, 1 ≤ n → n ≤ 40 → test n = true → m ≤ n) : stationNumbers.find? test = some m := by
  obtain ⟨k, rfl⟩ := Nat.exists_eq_add_of_le' known.1
  have found : (List.range Config.stations).find? (test ∘ (· + 1)) = some k := by
    refine List.find?_range_eq_some.mpr ⟨meets, List.mem_range.mpr known.2, fun j below => ?_⟩
    rw [Bool.not_eq_true', ← Bool.not_eq_true]
    intro earlier
    have lower := lowest (j + 1) (Nat.succ_pos j) (by omega) earlier
    omega
  rw [stationNumbers, List.find?_map, found]
  rfl

theorem overdue_iff : s.overdue n = true ↔ n ≠ s.cfg.station ∧ 100 ≤ heardAge s.lastHeard n
    ∧ ((∃ p, (s.replica.entry n).holds.get p ≠ 0) ∨ ∃ p, (s.replica.pools.get p).reserver = n) := by
  simp only [State.overdue, Bool.and_eq_true, bne_iff_ne, decide_eq_true_eq, holdsOrReserves_iff]
  exact ⟨fun ⟨⟨peer, units⟩, silent⟩ => ⟨peer, silent, units⟩, fun ⟨peer, silent, units⟩ => ⟨⟨peer, units⟩, silent⟩⟩

/-- Settles O43: each expiry through what its operation does, and the tick through the ages and the watch. -/
theorem claimKeepAndSilenceTimers : Obligations.ClaimKeepAndSilenceTimers := by
  intro s
  refine ⟨fun q r runs waits sync request ready none_due none_held running room => ?_, fun q f c runs sending => ?_,
    fun runs loaded configured empty => ?_, fun loaded stopped => ?_, fun n forty limit h1 h2 => ⟨?_, ?_⟩,
    fun overdue loaded watching sync empty is_overdue => ?_⟩
  · have ungranted : r.state ≠ .granted := by rw [ready]; decide
    have claims : s.reading r = .claims := reading_claims none_held (.inl running) room
    refine ⟨_, exec_claimAgeExpiry runs, ?_⟩
    rw [claimAgeOver_waiting waits, claimEmptied_claims (s := claimWithdrawn s) sync request ungranted
      (claimWithdrawn_slot s) none_due claims, placeClaim_empty (s := claimWithdrawn s) request (claimWithdrawn_slot s)]
    refine ⟨congrArg some ?_, rfl, slot_setSlot_self .., fun src other => ?_, rfl⟩
    · rw [← ready]
    · exact (slot_setSlot_ne (claimWithdrawn s) _ other).trans (slot_setSlot_ne s _ other)
  · rw [exec_claimAgeExpiry runs, claimAgeOver_sending sending]
  · exact ⟨_, exec_keepTimerExpiry_places runs (marksAllowed_eq_true loaded configured) empty, rfl,
      slot_setSlot_self .., fun src other => slot_setSlot_ne _ _ other, rfl, rfl⟩
  · exact (exec_lastHeardTick loaded).trans (congrArg Host.Outcome.next (judgeWatch_stopped stopped))
  · exact heardAge_passSecond_furthest h1 (h2.trans_eq forty.symm)
  · rintro ⟨m, behind⟩
    have known := h2.trans_eq forty.symm
    exact heardAge_passSecond_behind h1 known (limit _ (heardMs_mem h1 known)) behind
  · have judged (n : Nat) : overdue n ↔
        (1 ≤ n ∧ n ≤ 40) ∧ (s.setLastHeard (passSecond s.lastHeard)).overdue n = true := by
      rw [is_overdue, overdue_iff, and_assoc]
      rfl
    rw [exec_lastHeardTick loaded]
    refine ⟨fun m is_overdue_m lowest => ⟨_, rfl, ?_⟩, fun none_overdue => congrArg Host.Outcome.next ?_⟩
    · obtain ⟨known, silent⟩ := (judged m).mp is_overdue_m
      have peer : (s.setLastHeard (passSecond s.lastHeard)).overduePeer = some m := find?_stationNumbers known silent
        fun n least most late => lowest n ((judged n).mpr ⟨⟨least, most⟩, late⟩)
      rw [judgeWatch_places (s := s.setLastHeard (passSecond s.lastHeard)) watching sync empty peer]
      exact ⟨slot_setSlot_self .., rfl, rfl⟩
    · exact judgeWatch_none_overdue empty (List.find?_eq_none.mpr fun n listed late =>
        none_overdue n ((judged n).mpr ⟨mem_stationNumbers.mp listed, late⟩))

end Sys2Proof.Machine
end

