-- ==== Sys2Proof/Proofs/GateOpening.lean ====
section
/-! PROOFS. What the Claim Engine leaves alone, when an evaluation opens the gate, and the expiry of gate patience
(R117 to R120, R137): O44. -/

namespace Sys2Proof.Machine

variable {s t : State} {p : Pool} {r : Request} {n : Nat}

/-! ### What the Claim Engine and the mark source leave alone

The requests and the MARKs are written in the queue and in the Claim Engine; the rest of the station is compared by
masking these two. -/

/-- The station without its Row Line Interface and its Claim Engine. -/
def State.besideEngine (s : State) : State := (s.setRli Rli.cold).setClaim ClaimEngine.cold

theorem gate_of_besideEngine (h : t.besideEngine = s.besideEngine) : t.gate = s.gate :=
  (congrArg State.gate h :)

theorem seq_of_besideEngine (h : t.besideEngine = s.besideEngine) : t.seq = s.seq :=
  (congrArg State.seq h :)

theorem replica_of_besideEngine (h : t.besideEngine = s.besideEngine) : t.replica = s.replica :=
  (congrArg State.replica h :)

/-- What the replica shows this station to hold is read from neither. -/
theorem shownHold_of_besideEngine (h : t.besideEngine = s.besideEngine) (p : Pool) : t.shownHold p = s.shownHold p :=
  (congrArg (State.shownHold · p) h :)

@[simp] theorem ite_besideEngine (c : Prop) [Decidable c] (s t : State) :
    (if c then s else t).besideEngine = if c then s.besideEngine else t.besideEngine :=
  apply_ite State.besideEngine c s t

@[simp] theorem setRli_besideEngine (s : State) (x : Rli) : (s.setRli x).besideEngine = s.besideEngine := rfl

@[simp] theorem setClaim_besideEngine (s : State) (x : ClaimEngine) :
    (s.setClaim x).besideEngine = s.besideEngine := rfl

@[simp] theorem setSlot_besideEngine (s : State) (src : Source) (x : Slot) :
    (s.setSlot src x).besideEngine = s.besideEngine := rfl

@[simp] theorem withdraw_besideEngine (src : Source) (s : State) : (withdraw src s).besideEngine = s.besideEngine := by
  unfold withdraw
  split <;> rfl

@[simp] theorem putMark_besideEngine (h : HeldMark) (s : State) : (putMark h s).besideEngine = s.besideEngine := by
  unfold putMark
  split <;> rfl

@[simp] theorem keepMark_besideEngine (s : State) : (keepMark s).besideEngine = s.besideEngine := by simp [keepMark]

@[simp] theorem stateMark_besideEngine (s : State) : (stateMark s).besideEngine = s.besideEngine := by simp [stateMark]

/-- R125: a state entered without a milestone writes the sequencer's state beside the MARK. -/
theorem enterState_besideEngine (st : SeqState) (s : State) :
    (enterState st s).besideEngine = (toState st s).besideEngine := stateMark_besideEngine _

@[simp] theorem keepSync_besideEngine (s : State) : (keepSync s).besideEngine = s.besideEngine := by simp [keepSync]

@[simp] theorem grantRequest_besideEngine (p : Pool) (units : Nat) (s : State) :
    (grantRequest p units s).besideEngine = s.besideEngine := by simp [grantRequest, setGranted, recordHold]

@[simp] theorem setRequestState_besideEngine (st : RequestState) (s : State) :
    (setRequestState st s).besideEngine = s.besideEngine := rfl

@[simp] theorem placeClaim_besideEngine (r : Request) (s : State) :
    (placeClaim r s).besideEngine = s.besideEngine := by
  unfold placeClaim
  split <;> rfl

@[simp] theorem placePark_besideEngine (r : Request) (s : State) : (placePark r s).besideEngine = s.besideEngine := by
  unfold placePark
  split <;> rfl

@[simp] theorem reread_besideEngine (s : State) : (reread s).1.besideEngine = s.besideEngine := by
  unfold reread
  split
  · rfl
  · split
    · rfl
    · split <;> simp

@[simp] theorem tryUnpark_besideEngine (s : State) : (tryUnpark s).besideEngine = s.besideEngine := by
  unfold tryUnpark
  split
  · rfl
  · dsimp only
    split <;> rfl

@[simp] theorem dropRequestFrame_besideEngine (s : State) : (dropRequestFrame s).besideEngine = s.besideEngine := by
  unfold dropRequestFrame
  split
  · split <;> simp [stopClaimAge]
  · rfl

@[simp] theorem cancelRequest_besideEngine (s : State) : (cancelRequest s).besideEngine = s.besideEngine := by
  unfold cancelRequest
  split <;> simp [wantUnpark]

@[simp] theorem makeRequest_besideEngine (p : Pool) (units : Nat) (s : State) :
    (makeRequest p units s).1.besideEngine = s.besideEngine := by
  unfold makeRequest
  split <;> simp

/-! ### Requests for a pool that shows nothing held (R95, R137) -/

/-- R95: only line 1 of the table tells of a grant. -/
theorem reread_untold (request : s.claim.request = some r) (none_held : s.shownHold r.pool = 0) :
    (reread s).2 = false := by
  unfold reread
  rw [request]
  dsimp only
  split
  · rfl
  · split
    case h_1 held =>
      unfold State.reading at held
      split_ifs at held
      contradiction
    all_goals rfl

/-- R95: a request made for a pool in which nothing is shown held is not granted at once. -/
theorem makeRequest_untold (units : Nat) (none_held : s.shownHold p = 0) : (makeRequest p units s).2 = false := by
  unfold makeRequest
  split
  · rfl
  · exact reread_untold rfl ((shownHold_of_besideEngine (s := s) (by simp) p).trans none_held)

theorem requestLoad_besideEngine (none_held : s.shownHold .load = 0) :
    (requestLoad s).besideEngine = s.besideEngine := by
  simp [requestLoad, makeRequest_untold s.cfg.cost.load none_held]

/-- R137: with no hold in LOAD shown, the station that enters CLAIMING stays there with its LOAD request. -/
theorem enterClaiming_besideEngine (none_held : s.shownHold .load = 0) :
    (enterClaiming s).besideEngine = (toState .claiming s).besideEngine := by
  have entered := enterState_besideEngine .claiming s
  have still_none : (enterState .claiming s).shownHold .load = 0 :=
    (shownHold_of_besideEngine entered .load).trans none_held
  rw [enterClaiming, claimingStart, ite_besideEngine, requestLoad_besideEngine still_none, ite_self, entered]

/-! ### The class of a lead (R117) -/

theorem Patience.elapsedFor_iff {x : Patience} {night : Word16} : x.elapsedFor night = true ↔ x = .elapsed night := by
  cases x <;> simp [Patience.elapsedFor]

theorem classLead_passed_iff {awaited : MarkKind} {elapsed : Bool} {e : Entry} :
    classLead awaited elapsed e = .passed ↔ e.marks.has awaited = true ∨ e.state = some .done := by
  unfold classLead
  split_ifs <;> simp [*]

theorem classLead_out_iff {awaited : MarkKind} {elapsed : Bool} {e : Entry} :
    classLead awaited elapsed e = .out ↔ classLead awaited elapsed e ≠ .passed ∧ (e.state = some .failed
      ∨ e.state = some .skipped ∨ e.state = some .localUse ∨ (e.presence ≠ .present ∧ elapsed = true)) := by
  unfold classLead
  split_ifs with marked done dropped silent
  · simp
  · simp
  · exact iff_of_true rfl ⟨nofun, by tauto⟩
  · exact iff_of_true rfl ⟨nofun, by tauto⟩
  · exact iff_of_false nofun (by tauto)

/-- R117: the class in which an evaluation finds a lead. -/
def State.leadClass (s : State) (n : Nat) : LeadClass :=
  classLead s.cfg.awaited (s.gate.patience.elapsedFor s.gate.night) (s.replica.entry n)

theorem leadClasses_eq (s : State) : s.leadClasses = s.usedLeads.map s.leadClass := rfl

theorem leadClass_passed_iff : s.leadClass n = .passed ↔
    (s.replica.entry n).marks.has s.cfg.awaited = true ∨ (s.replica.entry n).state = some .done :=
  classLead_passed_iff

theorem leadClass_out_iff : s.leadClass n = .out ↔ s.leadClass n ≠ .passed ∧
    ((s.replica.entry n).state = some .failed
    ∨ (s.replica.entry n).state = some .skipped ∨ (s.replica.entry n).state = some .localUse
    ∨ ((s.replica.entry n).presence ≠ .present ∧ s.gate.patience = .elapsed s.gate.night)) := by
  rw [← Patience.elapsedFor_iff]
  exact classLead_out_iff

theorem LeadClass.ne_waiting_iff {c : LeadClass} : c ≠ .waiting ↔ c = .passed ∨ c = .out := by cases c <;> simp

/-! ### The opening condition (R118) -/

/-- R118: the opening condition over the used leads, for a reading of which are passed and which are out. -/
def State.OpeningCondition (s : State) (passed out : Nat → Prop) : Prop :=
  s.cfg.gateMode = .free
    ∨ (s.cfg.gateMode = .afterAny ∧ ((∃ n ∈ s.cfg.leads, n ≠ 0 ∧ n ≠ s.cfg.station ∧ passed n)
        ∨ ∀ n ∈ s.cfg.leads, n ≠ 0 → n ≠ s.cfg.station → out n))
    ∨ (s.cfg.gateMode = .afterAll ∧ ∀ n ∈ s.cfg.leads, n ≠ 0 → n ≠ s.cfg.station → passed n ∨ out n)

theorem mem_usedLeads : n ∈ s.usedLeads ↔ n ∈ s.cfg.leads ∧ n ≠ 0 ∧ n ≠ s.cfg.station := by
  simp [State.usedLeads]

theorem openingMet_iff : openingMet s.cfg.gateMode s.leadClasses = true ↔
    s.OpeningCondition (s.leadClass · = .passed) (s.leadClass · = .out) := by
  unfold State.OpeningCondition
  cases s.cfg.gateMode with
  | free => simp [openingMet]
  | afterAny => simp [openingMet, leadClasses_eq, mem_usedLeads, and_assoc]
  | afterAll => simp [openingMet, leadClasses_eq, mem_usedLeads, LeadClass.ne_waiting_iff]

/-- R118, R119: what an evaluation that opens the gate finds. -/
theorem gateOpens_iff : s.gateOpens = true ↔
    s.InSync ∧ s.seq.state = .gated ∧ s.gate.isOpen = false ∧ s.replica.night.state = .running
      ∧ s.replica.night.id = s.gate.night
      ∧ s.OpeningCondition (s.leadClass · = .passed) (s.leadClass · = .out) := by
  simp only [State.gateOpens, Bool.and_eq_true, beq_iff_eq, Bool.not_eq_true', openingMet_iff]
  tauto

/-! ### The expiry of gate patience (R119, R120, R137) -/

theorem exec_gatePatienceExpiry {left : Nat} {night : Word16} (runs : s.gate.patience = .running left night) :
    exec .gatePatienceExpiry s = .next (evaluateGate (s.setGate { s.gate with patience := .elapsed night })) := by
  change execGatePatienceExpiry s = _
  rw [execGatePatienceExpiry, runs]

/-- R119: outside GATED an evaluation does nothing. -/
theorem evaluateGate_not_gated (elsewhere : s.seq.state ≠ .gated) : evaluateGate s = s :=
  if_neg fun opens => elsewhere (gateOpens_iff.mp opens).2.1

/-- R119, R137: the gate that opens is OPEN, and the sequencer is in CLAIMING. -/
theorem evaluateGate_opens (opens : s.gateOpens = true) (none_held : s.shownHold .load = 0) :
    (evaluateGate s).besideEngine
      = (toState .claiming (s.setGate { s.gate with isOpen := true })).besideEngine := by
  rw [evaluateGate, if_pos opens]
  exact enterClaiming_besideEngine (s := s.setGate { s.gate with isOpen := true }) none_held

/-- Settles O44: the classes of the statement are those of the evaluation, and an expiry is an evaluation with the
patience elapsed. -/
theorem gateOpensOnItsCondition : Obligations.GateOpensOnItsCondition := by
  refine ⟨fun s => ⟨fun opens => ?_, ?_⟩, fun s left night runs => ⟨fun elsewhere => ?_, ?_⟩⟩
  · obtain ⟨sync, gated, closed, running, night, met⟩ := gateOpens_iff.mp opens
    exact ⟨sync, gated, closed, running, night, (s.leadClass · = .passed), (s.leadClass · = .out),
      fun _ => leadClass_passed_iff, fun _ => leadClass_out_iff, met⟩
  · rintro ⟨sync, gated, closed, running, night, passed, out, is_passed, is_out, met⟩
    obtain rfl : passed = (s.leadClass · = .passed) :=
      funext fun n => propext ((is_passed n).trans leadClass_passed_iff.symm)
    obtain rfl : out = (s.leadClass · = .out) := funext fun n => propext ((is_out n).trans leadClass_out_iff.symm)
    exact gateOpens_iff.mpr ⟨sync, gated, closed, running, night, met⟩
  · rw [exec_gatePatienceExpiry runs]
    exact congrArg Host.Outcome.next (evaluateGate_not_gated elsewhere)
  · rintro s1 rfl opens none_held
    have opened := evaluateGate_opens opens none_held
    have gate := gate_of_besideEngine opened
    exact ⟨_, exec_gatePatienceExpiry runs, congrArg GateMark.isOpen gate, congrArg GateMark.patience gate,
      congrArg Sequencer.state (seq_of_besideEngine opened), (replica_of_besideEngine opened).trans rfl⟩

end Sys2Proof.Machine
end

