-- ==== Sys2Proof/Proofs/BringUpStill.lean ====
section
/-! PROOFS. What leaves the sequencer, the emitted marks and the pending newest alone: one lemma per operation, tagged
for simp. An operation of the Claim Engine, of the queue or of the mark source leaves alone all but these two blocks
(`besideEngine`). -/

namespace Sys2Proof.Machine

/-! ### The queue, the mark source and the Claim Engine -/

@[simp] theorem place_besideEngine (src : Source) (b : Body) (s : State) :
    (place src b s).besideEngine = s.besideEngine := by
  unfold place
  split <;> rfl

@[simp] theorem progressMark_besideEngine (s : State) : (progressMark s).besideEngine = s.besideEngine := by
  unfold progressMark
  split <;> rfl

@[simp] theorem presentHeldMark_besideEngine (s : State) : (presentHeldMark s).besideEngine = s.besideEngine := by
  unfold presentHeldMark
  split <;> simp

@[simp] theorem markDropped_besideEngine (s : State) : (markDropped s).besideEngine = s.besideEngine := by
  simp [markDropped]

@[simp] theorem keepRestart_besideEngine (s : State) : (keepRestart s).besideEngine = s.besideEngine := by
  simp [keepRestart]

@[simp] theorem recordHold_besideEngine (p : Pool) (units : Nat) (s : State) :
    (recordHold p units s).besideEngine = s.besideEngine := by simp [recordHold]

@[simp] theorem recordReservation_besideEngine (r : Option Pool) (s : State) :
    (recordReservation r s).besideEngine = s.besideEngine := by simp [recordReservation]

@[simp] theorem stopClaimAge_besideEngine (s : State) : (stopClaimAge s).besideEngine = s.besideEngine := rfl

@[simp] theorem setGranted_besideEngine (s : State) : (setGranted s).besideEngine = s.besideEngine := rfl

@[simp] theorem raisePatience_besideEngine (s : State) : (raisePatience s).besideEngine = s.besideEngine := by
  simp [raisePatience]

@[simp] theorem wantUnpark_besideEngine (p : Pool) (s : State) : (wantUnpark p s).besideEngine = s.besideEngine := rfl

@[simp] theorem cancelAll_besideEngine (s : State) : (cancelAll s).besideEngine = s.besideEngine := by simp [cancelAll]

@[simp] theorem cancelFor_besideEngine (p : Pool) (s : State) : (cancelFor p s).besideEngine = s.besideEngine := by
  unfold cancelFor
  cases s.claim.deferred with
  | none => dsimp only; split <;> simp
  | some d => dsimp only; split <;> simp

@[simp] theorem startRestore_besideEngine (s : State) : (startRestore s).besideEngine = s.besideEngine := by
  simp [startRestore]

@[simp] theorem placeRelease_besideEngine (u : PerPool Nat) (s : State) :
    (placeRelease u s).besideEngine = s.besideEngine := by
  unfold placeRelease
  split
  · rfl
  · split <;> rfl

@[simp] theorem owePools_besideEngine (x : PerPool Bool) (s : State) :
    (owePools x s).besideEngine = s.besideEngine := rfl

@[simp] theorem releaseAsk_besideEngine (x : PerPool Bool) (s : State) :
    (releaseAsk x s).besideEngine = s.besideEngine := by simp [releaseAsk]

@[simp] theorem judgeWatch_besideEngine (s : State) : (judgeWatch s).besideEngine = s.besideEngine := by
  unfold judgeWatch
  split
  · rfl
  · split <;> simp

@[simp] theorem suspendEngine_besideEngine (s : State) : (suspendEngine s).besideEngine = s.besideEngine := rfl

/-! ### What the Claim Engine does beside telling the sequencer -/

@[simp] theorem lostRound_besideEngine (s : State) : (lostRound s).besideEngine = s.besideEngine := by simp [lostRound]

@[simp] theorem dropReservation_besideEngine (p : Pool) (s : State) :
    (dropReservation p s).besideEngine = s.besideEngine := by simp [dropReservation]

@[simp] theorem ownPark_besideEngine (pool : Byte) (v : Verdict) (s : State) :
    (ownPark pool v s).besideEngine = s.besideEngine := by
  unfold ownPark
  split <;> simp

@[simp] theorem ownUnpark_besideEngine (pool : Byte) (s : State) :
    (ownUnpark pool s).besideEngine = s.besideEngine := by
  unfold ownUnpark
  split <;> simp

@[simp] theorem releaseOutcome_besideEngine (u : PerPool Nat) (p : Pool) (s : State) :
    (releaseOutcome u p s).besideEngine = s.besideEngine := by simp [releaseOutcome]

@[simp] theorem peerGrant_besideEngine (p : Pool) (s : State) : (peerGrant p s).besideEngine = s.besideEngine := by
  unfold peerGrant
  split <;> simp

@[simp] theorem nightClearedReservation_besideEngine (r0 : Replica) (s : State) :
    (nightClearedReservation r0 s).besideEngine = s.besideEngine := by
  unfold nightClearedReservation
  split <;> simp

@[simp] theorem claimLeft_besideEngine (s : State) : (claimLeft s).besideEngine = s.besideEngine := rfl

@[simp] theorem unparkDropped_besideEngine (b : Body) (s : State) :
    (unparkDropped b s).besideEngine = s.besideEngine := by
  unfold unparkDropped
  split
  · split <;> simp
  · rfl

@[simp] theorem clearHeldRelease_besideEngine (s : State) : (clearHeldRelease s).besideEngine = s.besideEngine := rfl

@[simp] theorem sendRelease_besideEngine (u : PerPool Nat) (s : State) :
    (sendRelease u s).besideEngine = s.besideEngine := by simp [sendRelease]

@[simp] theorem releaseDelivered_besideEngine (s : State) : (releaseDelivered s).besideEngine = s.besideEngine := by
  simp [releaseDelivered]

@[simp] theorem releaseDropped_besideEngine (b : Body) (s : State) :
    (releaseDropped b s).besideEngine = s.besideEngine := by simp [releaseDropped]

@[simp] theorem releaseWaiting_besideEngine (s : State) : (releaseWaiting s).besideEngine = s.besideEngine := by
  simp [releaseWaiting]

@[simp] theorem releaseLost_besideEngine (b : Body) (s : State) :
    (releaseLost b s).besideEngine = s.besideEngine := rfl

@[simp] theorem takeRecord_besideEngine (s : State) : (takeRecord s).besideEngine = s.besideEngine := by
  simp [takeRecord]

@[simp] theorem takeReservation_besideEngine (s : State) : (takeReservation s).besideEngine = s.besideEngine := by
  simp [takeReservation]

@[simp] theorem unparkUnusable_besideEngine (s : State) : (unparkUnusable s).besideEngine = s.besideEngine := by
  simp [unparkUnusable]

@[simp] theorem settleOwed_besideEngine (s : State) : (settleOwed s).besideEngine = s.besideEngine := by
  simp [settleOwed]

/-! ### The other slots -/

@[simp] theorem workStep_besideEngine (s : State) : (workStep s).besideEngine = s.besideEngine := by
  unfold workStep
  split
  · rfl
  · split <;> simp

@[simp] theorem refreshRun0_besideEngine (s : State) : (refreshRun0 s).besideEngine = s.besideEngine := by
  unfold refreshRun0
  split <;> simp

@[simp] theorem currentRun0_besideEngine (s : State) : (currentRun0 s).besideEngine = s.besideEngine := by
  unfold currentRun0
  split <;> simp

@[simp] theorem placeRun0_besideEngine (s : State) : (placeRun0 s).besideEngine = s.besideEngine := by
  simp [placeRun0]

@[simp] theorem answerAgain_besideEngine (s : State) : (answerAgain s).besideEngine = s.besideEngine := by
  simp [answerAgain]

@[simp] theorem placeAsk_besideEngine (s : State) : (placeAsk s).besideEngine = s.besideEngine := by
  unfold placeAsk
  split <;> rfl

@[simp] theorem askEmptied_besideEngine (s : State) : (askEmptied s).besideEngine = s.besideEngine := by
  simp [askEmptied]

@[simp] theorem oweWaiting_besideEngine (s : State) : (oweWaiting s).besideEngine = s.besideEngine := by
  unfold oweWaiting
  split <;> simp

@[simp] theorem clearQueue_besideEngine (s : State) : (clearQueue s).besideEngine = s.besideEngine := rfl

@[simp] theorem forgetClaimFrame_besideEngine (s : State) : (forgetClaimFrame s).besideEngine = s.besideEngine := by
  simp [forgetClaimFrame]

@[simp] theorem startSending_besideEngine (src : Source) (field : Word16) (s : State) :
    (startSending src field s).besideEngine = s.besideEngine := by
  unfold startSending
  split <;> rfl

@[simp] theorem resetVetoRun_besideEngine (s : State) : (resetVetoRun s).besideEngine = s.besideEngine := rfl

@[simp] theorem countVetoed_besideEngine (s : State) : (countVetoed s).besideEngine = s.besideEngine := rfl

/-! ### The sequencer with its marks -/

/-- The sequencer, with the emitted marks and the pending newest of the Gate and Mark Unit. -/
def State.bringUp (s : State) : Sequencer × MarkSet × Option MarkKind := (s.seq, s.gate.emitted, s.gate.newest)

variable {s t : State}

theorem bringUp_of_besideEngine (h : t.besideEngine = s.besideEngine) : t.bringUp = s.bringUp :=
  (congrArg State.bringUp h :)

theorem seq_of_bringUp (h : t.bringUp = s.bringUp) : t.seq = s.seq := congrArg Prod.fst h

theorem marks_of_bringUp (h : t.bringUp = s.bringUp) :
    t.gate.emitted = s.gate.emitted ∧ t.gate.newest = s.gate.newest := Prod.mk.inj (congrArg Prod.snd h)

@[simp] theorem ite_bringUp (c : Prop) [Decidable c] (s t : State) :
    (if c then s else t).bringUp = if c then s.bringUp else t.bringUp := apply_ite State.bringUp c s t

@[simp] theorem setRli_bringUp (s : State) (x : Rli) : (s.setRli x).bringUp = s.bringUp := rfl

@[simp] theorem setReplica_bringUp (s : State) (x : Replica) : (s.setReplica x).bringUp = s.bringUp := rfl

@[simp] theorem setMember_bringUp (s : State) (x : Member) : (s.setMember x).bringUp = s.bringUp := rfl

@[simp] theorem setNight_bringUp (s : State) (x : NightUnit) : (s.setNight x).bringUp = s.bringUp := rfl

@[simp] theorem setClaim_bringUp (s : State) (x : ClaimEngine) : (s.setClaim x).bringUp = s.bringUp := rfl

@[simp] theorem setLink_bringUp (s : State) (x : LinkPort) : (s.setLink x).bringUp = s.bringUp := rfl

@[simp] theorem setSlot_bringUp (s : State) (src : Source) (x : Slot) : (s.setSlot src x).bringUp = s.bringUp := rfl

@[simp] theorem raise_bringUp (e : Event) (s : State) : (raise e s).bringUp = s.bringUp := rfl

@[simp] theorem withdraw_bringUp (src : Source) (s : State) : (withdraw src s).bringUp = s.bringUp :=
  bringUp_of_besideEngine (by simp)

@[simp] theorem place_bringUp (src : Source) (b : Body) (s : State) : (place src b s).bringUp = s.bringUp :=
  bringUp_of_besideEngine (by simp)

/-! ### The Night Unit and gate patience -/

@[simp] theorem orderSilence_bringUp (line : LineBytes) (s : State) : (orderSilence line s).bringUp = s.bringUp := by
  have checked (m : List Byte) (s : State) : (checkMessage m s).bringUp = s.bringUp := by
    unfold checkMessage
    split
    · rfl
    · dsimp only
      split
      · rfl
      · simp [acceptMessage]
  simp [orderSilence, checked, receiveMessage, sawSilence]

@[simp] theorem forgetRelay_bringUp (s : State) : (forgetRelay s).bringUp = s.bringUp := rfl

@[simp] theorem rejudgeRelay_bringUp (s : State) : (rejudgeRelay s).bringUp = s.bringUp := by
  unfold rejudgeRelay
  split
  · split <;> simp
  · rfl

@[simp] theorem expireCount_bringUp (c : NightCount) (s : State) : (expireCount c s).bringUp = s.bringUp := by
  cases c <;> rfl

@[simp] theorem runCount_bringUp (c : NightCount) (duration age : Nat) (s : State) :
    (runCount c duration age s).bringUp = s.bringUp := by
  cases c <;> simp [runCount, setCount]

@[simp] theorem clearCounts_bringUp (s : State) : (clearCounts s).bringUp = s.bringUp := rfl

@[simp] theorem countsAt_bringUp (t : NightState) (s : State) : (countsAt t s).bringUp = s.bringUp := by
  cases t <;> rfl

@[simp] theorem patienceRunning_bringUp (s : State) : (patienceRunning s).bringUp = s.bringUp := by
  unfold patienceRunning startPatience
  split_ifs <;> rfl

@[simp] theorem patienceAtSync_bringUp (s : State) : (patienceAtSync s).bringUp = s.bringUp := by
  unfold patienceAtSync startPatience
  split_ifs <;> rfl

@[simp] theorem stopPatience_bringUp (s : State) : (stopPatience s).bringUp = s.bringUp := rfl

@[simp] theorem orderCounts_bringUp (age : Nat) (s : State) : (orderCounts age s).bringUp = s.bringUp := by
  simp [orderCounts]

@[simp] theorem nightCounts_bringUp (age : Nat) (s : State) : (nightCounts age s).bringUp = s.bringUp := by
  simp [nightCounts]

@[simp] theorem raiseRunning_bringUp (s : State) : (raiseRunning s).bringUp = s.bringUp := by simp [raiseRunning]

@[simp] theorem nightApplied_bringUp (b : Body) (age : Nat) (s : State) :
    (nightApplied b age s).bringUp = s.bringUp := by
  unfold nightApplied
  split <;> simp

@[simp] theorem countsFromRun0_bringUp (run0 : List Byte) (s : State) :
    (countsFromRun0 run0 s).bringUp = s.bringUp := rfl

/-! ### The catch-up -/

@[simp] theorem startAnswer_bringUp (asker : Nat) (s : State) : (startAnswer asker s).bringUp = s.bringUp :=
  (bringUp_of_besideEngine (placeRun0_besideEngine _)).trans rfl

@[simp] theorem stopSeries_bringUp (s : State) : (stopSeries s).bringUp = s.bringUp := by simp [stopSeries]

@[simp] theorem placeRun_bringUp (k : Nat) (s : State) : (placeRun k s).bringUp = s.bringUp := by
  unfold placeRun
  split <;> simp

@[simp] theorem answerAgain_bringUp (s : State) : (answerAgain s).bringUp = s.bringUp :=
  bringUp_of_besideEngine (by simp)

@[simp] theorem seriesDelivered_bringUp (b : Body) (s : State) : (seriesDelivered b s).bringUp = s.bringUp := by
  unfold seriesDelivered
  split <;> simp [beginSeries, runDelivered]

@[simp] theorem seriesDropped_bringUp (b : Body) (s : State) : (seriesDropped b s).bringUp = s.bringUp := by
  simp [seriesDropped]

@[simp] theorem answerHeld_bringUp (s : State) : (answerHeld s).bringUp = s.bringUp := by simp [answerHeld]

@[simp] theorem endWatch_bringUp (s : State) : (endWatch s).bringUp = s.bringUp := by
  unfold endWatch
  split <;> simp

@[simp] theorem watchRun_bringUp (sender k : Nat) (s : State) : (watchRun sender k s).bringUp = s.bringUp := by
  unfold watchRun
  split
  · rfl
  · split <;> simp [setWatch]

@[simp] theorem run0Applied_bringUp (own : Bool) (s : State) : (run0Applied own s).bringUp = s.bringUp := by
  unfold run0Applied
  dsimp only
  split_ifs
  · rfl
  · simp
  · split <;> simp

@[simp] theorem catchUpNotice_bringUp (own : Bool) (sender : Nat) (b : Body) (s : State) :
    (catchUpNotice own sender b s).bringUp = s.bringUp := by
  unfold catchUpNotice
  split
  · simp [askApplied]
  · simp
  · rfl

/-! ### The membership states -/

@[simp] theorem placeAsk_bringUp (s : State) : (placeAsk s).bringUp = s.bringUp := bringUp_of_besideEngine (by simp)

@[simp] theorem askEmptied_bringUp (s : State) : (askEmptied s).bringUp = s.bringUp :=
  bringUp_of_besideEngine (by simp)

@[simp] theorem clearJoiner_bringUp (s : State) : (clearJoiner s).bringUp = s.bringUp := rfl

@[simp] theorem clearAnswerer_bringUp (s : State) : (clearAnswerer s).bringUp = s.bringUp := rfl

@[simp] theorem clearReplica_bringUp (s : State) : (clearReplica s).bringUp = s.bringUp := rfl

@[simp] theorem suspendEngine_bringUp (s : State) : (suspendEngine s).bringUp = s.bringUp := rfl

@[simp] theorem joinEntry_bringUp (s : State) : (joinEntry s).bringUp = s.bringUp := by simp [joinEntry]

@[simp] theorem isolate_bringUp (duplicate : Bool) (s : State) : (isolate duplicate s).bringUp = s.bringUp := by
  cases duplicate <;> rfl

@[simp] theorem askUnsuccessful_bringUp (s : State) : (askUnsuccessful s).bringUp = s.bringUp := by
  simp [askUnsuccessful]

@[simp] theorem abandon_bringUp (s : State) : (abandon s).bringUp = s.bringUp := by simp [abandon]

@[simp] theorem seriesGapOver_bringUp (s : State) : (seriesGapOver s).bringUp = s.bringUp := by
  unfold seriesGapOver
  dsimp only
  split <;> simp

@[simp] theorem askDelivered_bringUp (s : State) : (askDelivered s).bringUp = s.bringUp := by simp [askDelivered]

@[simp] theorem askDropped_bringUp (s : State) : (askDropped s).bringUp = s.bringUp := by simp [askDropped]

@[simp] theorem duplicateReported_bringUp (s : State) : (duplicateReported s).bringUp = s.bringUp := by
  unfold duplicateReported
  split <;> simp

@[simp] theorem noteCollision_bringUp (s : State) : (noteCollision s).bringUp = s.bringUp := by simp [noteCollision]

@[simp] theorem desync_bringUp (s : State) : (desync s).bringUp = s.bringUp := by
  have queue : (desyncQueue s).bringUp = s.bringUp := by
    simp [desyncQueue, bringUp_of_besideEngine (oweWaiting_besideEngine s)]
  simp [desync, queue]

@[simp] theorem rejoinStation_bringUp (s : State) : (rejoinStation s).bringUp = s.bringUp := by
  obtain ⟨rejoined, -⟩ := rejoinStation_rejoined s
  simp [State.bringUp, rejoined.sequencer, rejoined.gate]

@[simp] theorem vetoRunReported_bringUp (s : State) : (vetoRunReported s).bringUp = s.bringUp := by
  simp [vetoRunReported]

@[simp] theorem raiseVetoRun_bringUp (s : State) : (raiseVetoRun s).bringUp = s.bringUp := by simp [raiseVetoRun]

@[simp] theorem heardVetoed_bringUp (faulty : Bool) (s : State) : (heardVetoed faulty s).bringUp = s.bringUp := by
  have counted : (countVetoed s).bringUp = s.bringUp := rfl
  have reset : (resetVetoRun (countVetoed s)).bringUp = s.bringUp := rfl
  unfold heardVetoed
  dsimp only
  split_ifs
  · exact (raiseVetoRun_bringUp _).trans counted
  · exact (abandon_bringUp _).trans reset
  · exact reset

@[simp] theorem joiningFrame_bringUp (own : Bool) (sender : Nat) (b : Body) (s : State) :
    (joiningFrame own sender b s).bringUp = s.bringUp := by
  have late : (lateFrame sender b s).bringUp = s.bringUp := by
    unfold lateFrame
    split <;> simp
  unfold joiningFrame
  split_ifs
  · rfl
  · exact late
  · split <;> simp [adopt]

end Sys2Proof.Machine
end

