-- ==== Sys2Proof/Proofs/Turns.lean ====
section
/-! PROOFS. How the sequencer moves through a night (7.2, R133 to R152): what one operation can do to its state, its
attempt, its progress and its causes, said once (`Turn`), and one lemma per operation, to be chained. -/

namespace Sys2Proof.Machine

variable {z s t : State}

/-! ### The course of a night -/

/-- R131, R138, R146: how far the sequencer has come in its night. -/
structure Course where
  state : SeqState
  night : Word16
  attempt : Nat
  progress : Nat
  used : Nat
  causes : Nat

/-- R131, R154: the course as the sequencer and its outcome record hold it. -/
def Sequencer.course (q : Sequencer) : Course :=
  ⟨q.state, q.night, q.attempt, q.progress, q.outcome.used, q.outcome.causes.length⟩

/-- R129, R130, R138: the wake pulse, the good limit and the permit. -/
def Sequencer.waking (q : Sequencer) : Timer × Timer × Bool := (q.wake, q.good, q.permit)

/-- 7.2: the ways from state to state that neither take up a night, nor start an attempt, nor fail one. -/
def SeqState.leadsTo : SeqState → SeqState → Bool
  | .gated, .claiming | .gated, .skipped | .gated, .localUse => true
  | .claiming, .gated | .claiming, .skipped | .claiming, .localUse => true
  | .awaitGood, .settle | .awaitGood, .localUse => true
  | .settle, .booting | .settle, .localUse => true
  | .booting, .imaging | .booting, .finishing | .booting, .localUse => true
  | .imaging, .finishing | .imaging, .localUse => true
  | .finishing, .done | .finishing, .localUse => true
  | .cooldown, .claiming | .cooldown, .gated | .cooldown, .failed | .cooldown, .skipped | .cooldown, .localUse => true
  | _, _ => false

/-- R133 to R136: the states in which a night is taken up. -/
def SeqState.takenUp : SeqState → Bool
  | .gated | .skipped | .localUse => true
  | _ => false

/-- 7.2: the turns that an operation can give the course of a night. -/
inductive Turn (s t : State) : Prop where
  /-- the course is as it was, and an attempt that waits for POWER_GOOD waits on -/
  | stays (course : t.seq.course = s.seq.course) (waking : s.seq.state = .awaitGood → t.seq.waking = s.seq.waking)
  /-- 7.2: the way from state to state; after a COOLDOWN only with an attempt left (R147) -/
  | enters (st : SeqState) (leads : s.seq.state.leadsTo st = true)
      (left : s.seq.state = .cooldown → st = .gated ∨ st = .claiming → s.seq.outcome.used ≤ s.cfg.retryLimit)
      (course : t.seq.course = { s.seq.course with state := st })
  /-- R146 -/
  | fails (can : s.seq.state.canFail = true)
      (course : t.seq.course = { s.seq.course with state := .cooldown, causes := s.seq.course.causes + 1 })
  /-- R138 -/
  | wakes (ready : s.wakeReady = true)
      (course : t.seq.course = { s.seq.course with
        state := .awaitGood, attempt := s.seq.attempt + 1, progress := 0, used := s.seq.outcome.used + 1 })
      (waking : t.seq.waking = (.running 200, .running 3000, true))
  /-- R133 to R136 -/
  | takesUp (sync : s.InSync) (older : s.seq.state = .standby ∨ newer s.replica.night.id s.seq.night = true)
      (st : SeqState) (entered : st.takenUp = true) (course : t.seq.course = ⟨st, s.replica.night.id, 0, 0, 0, 0⟩)
  /-- R142 -/
  | reports (progress : Nat) (rises : s.seq.progress ≤ progress)
      (reporting : s.seq.state = .booting ∨ s.seq.state = .imaging)
      (course : t.seq.course = { s.seq.course with progress := progress })

/-- What the blocks do to the course of a night in one move: the replica and the settings are as they were, the station
enters IN_SYNC by none and leaves LOADING by none, and the pending newest stays a kind of the emitted marks. -/
structure Move (s t : State) : Prop where
  replica : t.replica = s.replica
  cfg : t.cfg = s.cfg
  loader : t.loader = s.loader
  sync : t.InSync → s.InSync
  loading : s.loader.state = .reading → s.member.state = .loading → t.member.state = .loading
  newest : NewestInSet s → NewestInSet t
  turn : Turn s t

/-- What the blocks do in one command, move by move. -/
def Moves : State → State → Prop := Relation.ReflTransGen Move

/-- R32: the pending newest is read from the Gate and Mark Unit alone. -/
theorem NewestInSet.congr (h : NewestInSet s)
    (gate : t.gate.emitted = s.gate.emitted ∧ t.gate.newest = s.gate.newest) : NewestInSet t := fun k newest => by
  rw [gate.1]
  exact h k (gate.2 ▸ newest)

theorem NewestInSet.of_gate (h : NewestInSet s) (gate : t.gate = s.gate) : NewestInSet t :=
  h.congr ⟨congrArg GateMark.emitted gate, congrArg GateMark.newest gate⟩

/-- R122: a milestone's kind is in the set it joins. -/
theorem NewestInSet.milestone (h : NewestInSet s) (k : MarkKind) : NewestInSet (milestone k s) := by
  have added : NewestInSet (s.setGate { s.gate with emitted := s.gate.emitted.add k, newest := some k }) := by
    intro j newest
    obtain rfl : k = j := Option.some.inj newest
    exact (MarkSet.has_add ..).trans (by simp)
  unfold Machine.milestone
  dsimp only
  split_ifs
  · exact h
  · exact added.congr (marks_of_bringUp (bringUp_of_besideEngine (putMark_besideEngine _ (s.setGate _))))
  · exact added

/-- R121: a set emptied for another night has no pending newest. -/
theorem NewestInSet.emittedFor (h : NewestInSet s) (night : Word16) : NewestInSet (emittedFor night s) := by
  unfold Machine.emittedFor
  split_ifs
  · exact h
  · exact fun k newest => nomatch newest

/-! ### What the marks leave alone of the sequencer -/

@[simp] theorem milestone_seq (k : MarkKind) (s : State) : (milestone k s).seq = s.seq := by
  unfold milestone
  dsimp only
  split_ifs
  · rfl
  · exact (seq_of_besideEngine (putMark_besideEngine _ _)).trans rfl
  · rfl

@[simp] theorem comparator_seq (progress : Nat) (later : Option MarkKind) (s : State) :
    (comparator progress later s).seq = s.seq := by
  unfold comparator
  split
  · cases later with
    | none => exact milestone_seq _ _
    | some k =>
      dsimp only
      split <;> simp
  · rfl

@[simp] theorem emittedFor_seq (night : Word16) (s : State) : (emittedFor night s).seq = s.seq := by
  unfold emittedFor
  split_ifs <;> rfl

@[simp] theorem gateReady_seq (night : Word16) (s : State) : (gateReady night s).seq = s.seq := by
  unfold gateReady
  split_ifs <;> rfl

@[simp] theorem stateMark_seq (s : State) : (stateMark s).seq = s.seq := seq_of_besideEngine (by simp)

@[simp] theorem stateMark_gate (s : State) : (stateMark s).gate = s.gate := gate_of_besideEngine (by simp)

@[simp] theorem releaseAsk_seq (x : PerPool Bool) (s : State) : (releaseAsk x s).seq = s.seq :=
  seq_of_besideEngine (by simp)

@[simp] theorem cancelAll_seq (s : State) : (cancelAll s).seq = s.seq := seq_of_besideEngine (by simp)

@[simp] theorem cancelFor_seq (p : Pool) (s : State) : (cancelFor p s).seq = s.seq := seq_of_besideEngine (by simp)

@[simp] theorem raise_seq (e : Event) (s : State) : (raise e s).seq = s.seq := rfl

/-- R125: a state entered without a milestone. -/
@[simp] theorem enterState_seq (st : SeqState) (s : State) : (enterState st s).seq = { s.seq with state := st } :=
  stateMark_seq _

/-- R122: a state entered with a milestone. -/
@[simp] theorem enterWith_seq (k : MarkKind) (st : SeqState) (s : State) :
    (enterWith k st s).seq = { s.seq with state := st } := milestone_seq _ _

/-- R154: the outcome that a terminal state writes. -/
@[simp] theorem setOutcome_seq (o : NightOutcome) (skip : Option SkipReason) (s : State) :
    (setOutcome o skip s).seq = { s.seq with outcome :=
      { s.seq.outcome with outcome := o, skip := skip, finalProgress := s.seq.progress } } := by
  unfold setOutcome
  dsimp only
  split_ifs <;> rfl

@[simp] theorem setLate_seq (s : State) :
    (setLate s).seq = { s.seq with outcome := { s.seq.outcome with late := true } } := rfl

@[simp] theorem setFinish_seq (f : FinishOutcome) (s : State) : (setFinish f s).seq = { s.seq with finish := f } := rfl

namespace Move

/-- The blocks keep the replica and the settings, and the membership state. -/
theorem kept (k : Kept s t) (member : t.member.state = s.member.state) (newest : NewestInSet s → NewestInSet t)
    (turn : Turn s t) : Move s t :=
  ⟨k.replica, k.cfg, k.loader, fun sync => member.symm.trans sync, fun _ => member.trans, newest, turn⟩

end Move

namespace Moves

theorem refl (s : State) : Moves s s := Relation.ReflTransGen.refl

theorem step (h : Moves z s) (m : Move s t) : Moves z t := Relation.ReflTransGen.tail h m

theorem ite {c : Prop} [Decidable c] (hs : Moves z s) (ht : Moves z t) : Moves z (if c then s else t) := by
  split <;> assumption

/-- A branch of an operation, with the condition under which it is taken. -/
theorem dite {c : Prop} [Decidable c] (hs : c → Moves z s) (ht : ¬ c → Moves z t) : Moves z (if c then s else t) := by
  split
  case isTrue h => exact hs h
  case isFalse h => exact ht h

/-! ### Operations that leave the course alone -/

/-- The sequencer, the emitted marks and the pending newest are as they were. -/
theorem still (h : Moves z s) (k : Kept s t) (member : t.member.state = s.member.state)
    (same : t.bringUp = s.bringUp := by simp) : Moves z t :=
  have seq := seq_of_bringUp same
  h.step (.kept k member (·.congr (marks_of_bringUp same))
    (.stays (congrArg Sequencer.course seq) fun _ => congrArg Sequencer.waking seq))

/-- An operation of the Claim Engine, the queue or the mark source. -/
theorem beside (h : Moves z s) (same : t.besideEngine = s.besideEngine := by simp) : Moves z t :=
  h.still ⟨(congrArg State.replica same :), (congrArg State.lastHeard same :), (congrArg State.pins same :),
      (congrArg State.loader same :), (congrArg State.cfg same :), (congrArg State.freeCount same :),
      (congrArg State.pending same :)⟩
    (congrArg (fun s => s.member.state) same :) (bringUp_of_besideEngine same)

theorem setRli (h : Moves z s) {x : Rli} : Moves z (s.setRli x) := h.beside
theorem setClaim (h : Moves z s) {x : ClaimEngine} : Moves z (s.setClaim x) := h.beside
theorem setSlot (h : Moves z s) {src : Source} {x : Slot} : Moves z (s.setSlot src x) := h.beside
theorem setLink (h : Moves z s) {x : LinkPort} : Moves z (s.setLink x) := h.still (.setLink (.refl s)) rfl
theorem setNight (h : Moves z s) {x : NightUnit} : Moves z (s.setNight x) := h.still (.setNight (.refl s)) rfl
theorem raise (h : Moves z s) (e : Event) : Moves z (raise e s) := h.setLink

/-- A write of the sequencer beside the course, the wake pulse, the good limit and the permit. -/
theorem setSeq (h : Moves z s) {x : Sequencer} (course : x.course = s.seq.course := by rfl)
    (waking : x.waking = s.seq.waking := by rfl) : Moves z (s.setSeq x) :=
  h.step (.kept (.setSeq (.refl s)) rfl (·.congr ⟨rfl, rfl⟩) (.stays course fun _ => waking))

/-- A write of the gate beside the emitted marks. -/
theorem setGate (h : Moves z s) {x : GateMark} (newest : NewestInSet s → NewestInSet (s.setGate x)) :
    Moves z (s.setGate x) :=
  h.step (.kept (.setGate (.refl s)) rfl newest (.stays rfl fun _ => rfl))

theorem milestone (h : Moves z s) (k : MarkKind) : Moves z (milestone k s) :=
  have seq := milestone_seq k s
  h.step (.kept (.milestone k (.refl s)) (congrArg Member.state (milestone_member k s)) (·.milestone k)
    (.stays (congrArg Sequencer.course seq) fun _ => congrArg Sequencer.waking seq))

theorem comparator (h : Moves z s) (progress : Nat) (later : Option MarkKind) :
    Moves z (comparator progress later s) := by
  unfold Machine.comparator
  refine .ite ?_ h
  cases later with
  | none => exact h.milestone _
  | some k => exact .ite (h.milestone _) ((h.milestone _).milestone _)

theorem markDelivered (h : Moves z s) (b : Body) : Moves z (markDelivered b s) :=
  (ite (h.setGate fun _ _ newest => by cases newest) h : Moves z (if s.carriedNewest b then _ else s)).beside
    (presentHeldMark_besideEngine _)

/-! ### What the Claim Engine tells (R137 to R140, R149) -/

theorem wakeTest (h : Moves z s) : Moves z (wakeTest s) :=
  dite (fun ready => h.step (.kept (.wakeStart (.refl s)) (congrArg Member.state (wakeStart_member s))
    (·.of_gate (stateMark_gate _))
    (.wakes ready (congrArg Sequencer.course (stateMark_seq _)) (congrArg Sequencer.waking (stateMark_seq _)))))
    fun _ => h

theorem requestSurge (h : Moves z s) : Moves z (requestSurge s) := wakeTest h.beside

theorem loadGranted (h : Moves z s) : Moves z (loadGranted s) := .ite h.requestSurge h

theorem requestLoad (h : Moves z s) : Moves z (requestLoad s) := .ite (loadGranted h.beside) h.beside

theorem feedGranted (h : Moves z s) : Moves z (feedGranted s) := .ite (h.setSeq.raise _) h

theorem requestFeed (h : Moves z s) : Moves z (requestFeed s) := .ite (feedGranted h.beside) h.beside

theorem toldGranted (h : Moves z s) (p : Pool) : Moves z (toldGranted p s) := by
  cases p with
  | load => exact h.loadGranted
  | surge => exact h.wakeTest
  | feed => exact h.feedGranted

theorem remakeDeferred (h : Moves z s) : Moves z (remakeDeferred s) := by
  unfold Machine.remakeDeferred
  split
  · exact h
  · exact .ite (toldGranted h.beside _) h.beside

theorem tellGrant (h : Moves z s) : Moves z (tellGrant s) := by
  unfold Machine.tellGrant
  split
  · exact h
  · exact .ite h.remakeDeferred (h.toldGranted _)

theorem rereadTold (h : Moves z s) : Moves z (rereadTold s) := .ite (tellGrant h.beside) h.beside

theorem claimingStart (h : Moves z s) : Moves z (claimingStart s) := .ite h.requestLoad h

theorem noteOff (h : Moves z s) : Moves z (noteOff s) := .ite (remakeDeferred h.beside) h

/-! ### From state to state (7.2) -/

/-- R125: a state entered without a milestone. -/
theorem enterState (h : Moves z s) {st : SeqState} (leads : s.seq.state.leadsTo st = true)
    (left : s.seq.state = .cooldown → st = .gated ∨ st = .claiming → s.seq.outcome.used ≤ s.cfg.retryLimit) :
    Moves z (enterState st s) :=
  h.step (.kept (.enterState st (.refl s)) (congrArg Member.state (enterState_member st s))
    (·.of_gate (stateMark_gate _))
    (.enters st leads left (congrArg Sequencer.course (enterState_seq st s))))

/-- R122: a state entered with a milestone. -/
theorem enterWith (h : Moves z s) (k : MarkKind) {st : SeqState} (leads : s.seq.state.leadsTo st = true)
    (terminal : st ≠ .gated ∧ st ≠ .claiming := by decide) : Moves z (enterWith k st s) :=
  h.step (.kept (.enterWith k st (.refl s)) (congrArg Member.state (enterWith_member k st s))
    (NewestInSet.milestone (s := toState st s) · k)
    (.enters st leads (fun _ waits => absurd waits (not_or.mpr terminal))
      (congrArg Sequencer.course (enterWith_seq k st s))))

theorem setOutcome (h : Moves z s) (o : NightOutcome) (skip : Option SkipReason) : Moves z (setOutcome o skip s) :=
  .ite (h.setSeq.raise _) h.setSeq

theorem setLate (h : Moves z s) : Moves z (setLate s) := h.setSeq

theorem setFinish (h : Moves z s) (f : FinishOutcome) : Moves z (setFinish f s) := h.setSeq

theorem enterClaiming (h : Moves z s) (leads : s.seq.state.leadsTo .claiming = true)
    (left : s.seq.state = .cooldown → s.seq.outcome.used ≤ s.cfg.retryLimit) : Moves z (enterClaiming s) :=
  (h.enterState leads fun cool _ => left cool).claimingStart

theorem evaluateGate (h : Moves z s) : Moves z (evaluateGate s) :=
  dite (fun opens => by
    obtain ⟨-, gated, -⟩ := gateOpens_iff.mp opens
    have opened : Moves z (s.setGate { s.gate with isOpen := true }) := h.setGate (·.congr ⟨rfl, rfl⟩)
    exact opened.enterClaiming (by rw [setGate_seq, gated]; rfl) (by rw [setGate_seq, gated]; exact nofun)) fun _ => h

theorem readGate (h : Moves z s) : Moves z (readGate s) :=
  dite (fun reads => h.enterClaiming (by rw [reads.1]; rfl) (by rw [reads.1]; exact nofun)) fun _ => h

/-! ### Taking up a night (R133 to R136) -/

/-- R133 to R136: a night taken up, with the state it is taken up in. -/
theorem takenUp (h : Moves z s) (sync : s.InSync)
    (older : s.seq.state = .standby ∨ newer s.replica.night.id s.seq.night = true) {st : SeqState} (k : Kept s t)
    (entered : st.takenUp = true) (member : t.member = s.member) (newest : NewestInSet s → NewestInSet t)
    (course : t.seq.course = ⟨st, s.replica.night.id, 0, 0, 0, 0⟩) : Moves z t :=
  h.step (.kept k (congrArg Member.state member) newest (.takesUp sync older st entered course))

end Moves

end Sys2Proof.Machine
end

