-- ==== Sys2Proof/Proofs/SequencerMoves.lean ====
section
/-! PROOFS. The moves of the sequencer's own operations and of the notices that reach it (R133 to R150): one lemma per
operation, in the order in which the operations are made. -/

namespace Sys2Proof.Machine

variable {z s : State}

/-- R133: what a take-up writes of the sequencer. -/
theorem takeUp_course (s : State) : (takeUp s).seq.course = ⟨s.seq.state, s.replica.night.id, 0, 0, 0, 0⟩ :=
  congrArg Sequencer.course (emittedFor_seq _ (s.setSeq _))

theorem NewestInSet.takeUp (h : NewestInSet s) : NewestInSet (takeUp s) := by
  unfold Machine.takeUp
  refine NewestInSet.emittedFor ?_ _
  exact h.of_gate rfl

/-- R116, R121: what entry to GATED makes ready. -/
def gatedReady (s : State) : State := gateReady s.seq.night (emittedFor s.seq.night s)

/-- R116, R119, R121, R137: entry to GATED reads the gate once it is ready. -/
theorem enterGated_eq (s : State) : enterGated s = readGate (evaluateGate (enterState .gated (gatedReady s))) := rfl

theorem Kept.gatedReady {z s : State} (h : Kept z s) : Kept z (gatedReady s) := .gateReady _ (.emittedFor _ h)

@[simp] theorem gatedReady_member (s : State) : (gatedReady s).member = s.member := by simp [gatedReady]

@[simp] theorem gatedReady_seq (s : State) : (gatedReady s).seq = s.seq := by simp [gatedReady]

theorem NewestInSet.gateReady (h : NewestInSet s) (night : Word16) : NewestInSet (gateReady night s) := by
  unfold Machine.gateReady
  split_ifs
  · exact h
  · exact h.congr ⟨rfl, rfl⟩

theorem NewestInSet.gatedReady (h : NewestInSet s) : NewestInSet (gatedReady s) := (h.emittedFor _).gateReady _

/-- R133: an idle station's night is older than the replica's, or none. -/
theorem idle_older (h : s.idle = true) :
    s.seq.state = .standby ∨ newer s.replica.night.id s.seq.night = true := by
  simp only [State.idle, Bool.or_eq_true, beq_iff_eq, Bool.and_eq_true] at h
  exact h.imp_right And.right

/-- R142: a report is accepted in BOOTING or IMAGING, and no progress falls. -/
theorem judgeReport_accepted {progress : Nat} (h : judgeReport s progress = .accepted) :
    (s.seq.state = .booting ∨ s.seq.state = .imaging) ∧ s.seq.progress ≤ progress := by
  unfold judgeReport at h
  split_ifs at h with reporting go range rises
  exact ⟨reporting, Nat.le_of_not_lt rises⟩

/-- R146: the sequencer after a failed attempt. -/
def Sequencer.failed (c : Cause) (q : Sequencer) : Sequencer :=
  { q with
    state := .cooldown
    outcome := { q.outcome with causes := q.outcome.causes ++ [c] }
    permit := false
    good := .stopped, settle := .stopped, contactTimer := .stopped, progressTimer := .stopped
    go := false
    cooldown := .running 15000 }

/-- Entering a state writes the sequencer alone, whatever the queue and the Claim Engine hold. -/
theorem toState_congr {t : State} (h : t.besideEngine = s.besideEngine) (st : SeqState) :
    (toState st t).besideEngine = (toState st s).besideEngine := (congrArg (toState st) h :)

/-- R146: beside the queue and the Claim Engine a failed attempt writes the sequencer alone. -/
theorem failAttempt_besideEngine (c : Cause) (s : State) :
    (failAttempt c s).besideEngine = (s.setSeq (s.seq.failed c)).besideEngine :=
  (enterState_besideEngine .cooldown _).trans
    (toState_congr ((releaseAsk_besideEngine _ _).trans (cancelAll_besideEngine _)) .cooldown)

namespace Moves

/-! ### Taking up a night (R133 to R136) -/

/-- R133, R135, R136: a night taken up and left at once. -/
theorem takeUpWith (h : Moves z s) (sync : s.InSync)
    (older : s.seq.state = .standby ∨ newer s.replica.night.id s.seq.night = true) (k : MarkKind) (st : SeqState)
    (entered : st.takenUp = true) : Moves z (Machine.enterWith k st (takeUp s)) :=
  h.takenUp sync older (.enterWith k st (.takeUp (.refl s))) entered (by simp)
    (fun newest => NewestInSet.milestone (s := toState st (takeUp s)) (newest.takeUp.of_gate rfl) k)
    ((congrArg Sequencer.course (enterWith_seq k st _)).trans
      (congrArg (fun c : Course => { c with state := st }) (takeUp_course s)))

theorem takeUpSkipped (h : Moves z s) (sync : s.InSync)
    (older : s.seq.state = .standby ∨ newer s.replica.night.id s.seq.night = true) (reason : SkipReason) :
    Moves z (takeUpSkipped reason s) := (h.takeUpWith sync older _ _ rfl).setOutcome _ _

theorem gatedReady (h : Moves z s) : Moves z (gatedReady s) :=
  h.step (.kept (.gatedReady (.refl s)) (congrArg Member.state (gatedReady_member s)) (·.gatedReady)
    (.stays (congrArg Sequencer.course (gatedReady_seq s)) fun _ => congrArg Sequencer.waking (gatedReady_seq s)))

/-- R116, R121, R137: entry to GATED from CLAIMING or COOLDOWN. -/
theorem enterGated (h : Moves z s) (leads : s.seq.state.leadsTo .gated = true)
    (left : s.seq.state = .cooldown → s.seq.outcome.used ≤ s.cfg.retryLimit) : Moves z (enterGated s) :=
  have k : Kept s (Machine.gatedReady s) := .gatedReady (.refl s)
  (h.gatedReady.enterState (by rwa [gatedReady_seq]) fun cool _ => by
    rw [gatedReady_seq] at cool ⊢
    rw [k.cfg]
    exact left cool).evaluateGate.readGate

theorem takeUpRunning (h : Moves z s) (sync : s.InSync)
    (older : s.seq.state = .standby ∨ newer s.replica.night.id s.seq.night = true) : Moves z (takeUpRunning s) := by
  have gated : Moves z (Machine.enterState .gated (Machine.gatedReady (takeUp s))) :=
    h.takenUp sync older (.enterState .gated (.gatedReady (.takeUp (.refl s)))) rfl (by simp)
      (fun newest => newest.takeUp.gatedReady.of_gate (stateMark_gate _))
      ((congrArg Sequencer.course ((enterState_seq _ _).trans (by rw [gatedReady_seq]))).trans
        (congrArg (fun c : Course => { c with state := .gated }) (takeUp_course s)))
  exact .ite (h.takeUpSkipped sync older _) (.ite (h.takeUpSkipped sync older _)
    (.ite ((h.takeUpWith sync older _ _ rfl).setOutcome _ _) gated.evaluateGate.readGate))

theorem takeUpClosed (h : Moves z s) (sync : s.InSync)
    (older : s.seq.state = .standby ∨ newer s.replica.night.id s.seq.night = true) (reason : SkipReason) :
    Moves z (takeUpClosed reason s) := h.takeUpSkipped sync older _

theorem lookNewer (h : Moves z s) : Moves z (lookNewer s) :=
  dite (fun ⟨sync, older⟩ => .ite (h.takeUpRunning sync (.inr older)) (.ite (h.takeUpSkipped sync (.inr older) _) h))
    fun _ => h

/-! ### Leaving for a terminal state (R145, R148, R151, R152) -/

theorem finishDone (h : Moves z s) (finishing : s.seq.state = .finishing) : Moves z (finishDone s) :=
  have stopped : Moves z (s.setSeq { s.seq with shutdown := .stopped }) := h.setSeq
  have done := stopped.enterState (st := .done) (by rw [setSeq_seq, finishing]; rfl) (by simp)
  (done.noteOff.beside (releaseAsk_besideEngine _ _)).setOutcome _ _ |>.lookNewer

theorem finishingActs (h : Moves z s) (finishing : s.seq.state = .finishing) : Moves z (finishingActs s) := by
  have acts : Moves z (releaseAsk (onlyPool .feed) (s.setSeq { s.seq with
      go := false, contactTimer := .stopped, progressTimer := .stopped, shutdown := .running Config.shutdown })) :=
    (h.setSeq).beside (releaseAsk_besideEngine _ _)
  exact .ite acts (acts.finishDone (by rw [releaseAsk_seq, setSeq_seq]; exact finishing))

theorem enterFinishing (h : Moves z s) (leads : s.seq.state.leadsTo .finishing = true) (f : FinishOutcome) :
    Moves z (enterFinishing f s) :=
  ((h.setFinish f).enterState (st := .finishing) leads (by simp)).finishingActs (by rw [enterState_seq])

theorem localEntry (h : Moves z s) (leads : s.seq.state.leadsTo .localUse = true) : Moves z (localEntry s) :=
  have left : Moves z (releaseAsk everyPool (cancelAll s)) := h.beside
  ((left.enterWith .localUse (st := .localUse) (by rwa [releaseAsk_seq, cancelAll_seq])).setOutcome _ _).lookNewer

theorem skipNight (h : Moves z s) (leads : s.seq.state.leadsTo .skipped = true) (reason : SkipReason)
    (after : NightOutcome) : Moves z (skipNight reason after s) :=
  have left : Moves z (releaseAsk everyPool (cancelAll s)) := h.beside
  have skipped := left.enterWith .skipped (st := .skipped) (by rwa [releaseAsk_seq, cancelAll_seq])
  (ite (skipped.setOutcome _ _) (skipped.setOutcome _ _)).lookNewer

/-- R146: a failed attempt, with its cause in the list. -/
theorem failAttempt (h : Moves z s) (can : s.seq.state.canFail = true) (c : Cause) : Moves z (failAttempt c s) := by
  have same := failAttempt_besideEngine c s
  refine h.step (.kept (.failAttempt c (.refl s)) (congrArg Member.state (failAttempt_member c s))
    (·.of_gate ((gate_of_besideEngine same).trans rfl))
    (.fails can ((congrArg Sequencer.course (seq_of_besideEngine same)).trans ?_)))
  simp [Sequencer.failed, Sequencer.course]

/-! ### Settling, booting and cooldown (R139, R140, R147) -/

theorem bootingActs (h : Moves z s) (booting : s.seq.state = .booting) : Moves z (bootingActs s) := by
  have acts : Moves z (s.setSeq { s.seq with
      go := false, contactTimer := if s.seq.contact then s.seq.contactTimer else .running Config.contact }) := h.setSeq
  have leads : s.seq.state.leadsTo .finishing = true := by rw [booting]; rfl
  unfold Machine.bootingActs
  dsimp only
  split
  · exact acts.requestFeed
  · exact acts.requestFeed
  · exact acts.enterFinishing leads _
  · exact acts.enterFinishing leads _
  · exact acts.enterFinishing leads _

theorem settleEnds (h : Moves z s) (settles : s.seq.state = .settle) : Moves z (settleEnds s) := by
  have released : Moves z (releaseAsk (onlyPool .surge) (s.setSeq { s.seq with settle := .stopped })) :=
    (h.setSeq).beside (releaseAsk_besideEngine _ _)
  have booted := released.enterWith .surgeEnd (st := .booting) (by rw [releaseAsk_seq, setSeq_seq, settles]; rfl)
  exact booted.bootingActs (by rw [enterWith_seq])

theorem cooldownEnds (h : Moves z s) (cool : s.seq.state = .cooldown) : Moves z (cooldownEnds s) := by
  have ends (k : MarkKind) {st : SeqState} (leads : SeqState.cooldown.leadsTo st = true)
      (terminal : st ≠ .gated ∧ st ≠ .claiming) (o : NightOutcome) :
      Moves z (Machine.lookNewer (Machine.setOutcome o none (Machine.enterWith k st s))) :=
    ((h.enterWith k (cool ▸ leads) terminal).setOutcome _ _).lookNewer
  unfold Machine.cooldownEnds
  split
  case isTrue => exact ends _ rfl (by decide) _
  case isFalse left =>
    have left : s.seq.outcome.used ≤ s.cfg.retryLimit := Nat.le_of_not_lt left
    split
    · exact h.enterClaiming (cool ▸ rfl) fun _ => left
    · exact h.enterGated (cool ▸ rfl) fun _ => left
    · exact ends _ rfl (by decide) _
    · exact ends _ rfl (by decide) _
    · exact ends _ rfl (by decide) _

/-! ### The night moving underneath (R134, R136, R148) -/

theorem gatedStanding (h : Moves z s) (gated : s.seq.state = .gated) : Moves z (gatedStanding s) := by
  have leads : s.seq.state.leadsTo .skipped = true := by rw [gated]; rfl
  unfold Machine.gatedStanding
  split
  · exact h
  · exact h.readGate
  · exact h.skipNight leads _ _
  · exact h.skipNight leads _ _
  · exact h.skipNight leads _ _

theorem claimingStanding (h : Moves z s) (claiming : s.seq.state = .claiming) : Moves z (claimingStanding s) := by
  have leads : s.seq.state.leadsTo .skipped = true := by rw [claiming]; rfl
  have left : Moves z (releaseAsk everyPool (cancelAll s)) := h.beside
  unfold Machine.claimingStanding
  split
  · refine left.enterGated ?_ ?_
    · rw [releaseAsk_seq, cancelAll_seq, claiming]; rfl
    · rw [releaseAsk_seq, cancelAll_seq, claiming]; exact nofun
  · exact h
  · exact h.skipNight leads _ _
  · exact h.skipNight leads _ _
  · exact h.skipNight leads _ _

theorem bootingStanding (h : Moves z s) (booting : s.seq.state = .booting) : Moves z (bootingStanding s) := by
  have leads : s.seq.state.leadsTo .finishing = true := by rw [booting]; rfl
  have cancelled {s : State} (h : Moves z s) (leads : s.seq.state.leadsTo .finishing = true) (f : FinishOutcome) :
      Moves z (Machine.enterFinishing f (cancelFor .feed s)) :=
    (h.beside (cancelFor_besideEngine _ _)).enterFinishing (by rwa [cancelFor_seq]) f
  unfold Machine.bootingStanding
  split
  · exact h
  · exact h
  · exact cancelled h leads _
  · exact h
  · exact cancelled h.setLate leads _
  · exact h.setLate
  · exact cancelled h.setLate leads _
  · exact h.setLate.enterFinishing leads _

theorem imagingStanding (h : Moves z s) : Moves z (imagingStanding s) := by
  unfold Machine.imagingStanding
  split
  · exact h
  · exact h
  · exact h
  · exact h.setLate
  · exact h.setLate.setFinish _

theorem lateStanding (h : Moves z s) : Moves z (lateStanding s) := by
  unfold Machine.lateStanding
  split
  · exact h
  · exact h
  · exact h
  · exact h.setLate
  · exact h.setLate

theorem standingReaction (h : Moves z s) : Moves z (standingReaction s) := by
  unfold Machine.standingReaction
  split
  case h_1 gated => exact h.gatedStanding gated
  case h_2 claiming => exact h.claimingStanding claiming
  case h_3 booting => exact h.bootingStanding booting
  case h_4 => exact h.imagingStanding
  case h_5 | h_6 | h_7 | h_8 => exact h.lateStanding
  all_goals exact h

theorem workStanding (h : Moves z s) : Moves z (workStanding s) := .ite h (standingReaction h.setSeq)

theorem busyNotice (h : Moves z s) : Moves z (busyNotice s) :=
  workStanding (ite h.setSeq h : Moves z (noteNewer s))

theorem nightNotice (h : Moves z s) (sync : s.InSync) (aborted : Bool) : Moves z (nightNotice aborted s) := by
  unfold Machine.nightNotice
  refine .dite (fun idle => ?_) fun _ => h.busyNotice
  split
  · exact h.takeUpRunning sync (idle_older idle)
  · exact h.takeUpClosed sync (idle_older idle) _
  · exact .ite (h.takeUpClosed sync (idle_older idle) _) h
  all_goals exact h

theorem reviewIdle (h : Moves z s) (sync : s.InSync) : Moves z (reviewIdle s) :=
  dite (fun standby => .ite (h.takeUpRunning sync (.inl standby)) h) fun _ => .ite h.lookNewer h

theorem review (h : Moves z s) (sync : s.InSync) : Moves z (review s) :=
  have first := h.reviewIdle sync
  (ite first first.busyNotice).wakeTest.readGate

theorem toldLost (h : Moves z s) (lost : PerPool Bool) : Moves z (toldLost lost s) := by
  unfold Machine.toldLost
  split
  · exact .ite (requestLoad h.beside) h.claimingStart
  · exact .ite (requestFeed h.setSeq) h
  all_goals exact h

/-! ### Contact and reports (R141 to R144) -/

theorem bootRecordRead (h : Moves z s) : Moves z (bootRecordRead s) := .ite h.setSeq h

/-- R143: the flags of a report that was accepted. -/
theorem reportFlags (h : Moves z s) (reporting : s.seq.state = .booting ∨ s.seq.state = .imaging) (progress : Nat)
    (transfer image failed : Bool) : Moves z (reportFlags progress transfer image failed s) := by
  have booted : Moves z (firstReport s) := dite (fun booting => h.enterWith _ (by rw [booting]; rfl)) fun _ => h
  have imaging : (firstReport s).seq.state = .imaging := by
    unfold firstReport
    split
    case isTrue => rw [enterWith_seq]
    case isFalse other => exact reporting.resolve_left other
  have transferred : Moves z (transferReport (firstReport s)) :=
    (booted.setSeq.beside (releaseAsk_besideEngine _ _)).milestone _
  have still_imaging : (transferReport (firstReport s)).seq.state = .imaging := by
    rw [transferReport, milestone_seq, releaseAsk_seq]
    exact imaging
  have imaged {s : State} (h : Moves z s) (imaging : s.seq.state = .imaging) : Moves z (imageReport s) := by
    have kept : Moves z (if s.seq.finish = .aborted then s else Machine.setFinish .done s) := .ite h (h.setFinish _)
    refine (kept.enterWith .imaged (st := .finishing) ?_).finishingActs (by rw [enterWith_seq])
    split
    · rw [imaging]; rfl
    · rw [setFinish_seq, imaging]; rfl
  unfold Machine.reportFlags
  refine .ite (booted.failAttempt (by rw [imaging]; rfl) _)
    ((ite ?_ ?_ : Moves z (if image = true then _ else _)).comparator _ _)
  · split
    · exact imaged transferred still_imaging
    · exact imaged booted imaging
  · exact .ite transferred booted

theorem takeReport (h : Moves z s) (progress : Nat) (transfer image failed : Bool) :
    Moves z (takeReport progress transfer image failed s) := by
  refine .dite (fun accepted => ?_) fun _ => h.raise _
  obtain ⟨reporting, rises⟩ := judgeReport_accepted accepted
  have reported : Moves z (s.setSeq { s.seq with progress := progress, progressTimer := .running Config.progress }) :=
    h.step (.kept (.setSeq (.refl s)) rfl (·.of_gate rfl) (.reports progress rises reporting rfl))
  exact (reported.reportFlags reporting progress transfer image failed).beside (progressMark_besideEngine _)

/-! ### What the Claim Engine does at the notices of an application (R100 to R110) -/

theorem claimWon (h : Moves z s) (p : Pool) (units : Nat) : Moves z (claimWon p units s) :=
  .ite (tellGrant h.beside) h.beside

theorem ownClaim (h : Moves z s) (pool units : Byte) (v : Verdict) : Moves z (ownClaim pool units v s) := by
  unfold Machine.ownClaim
  split
  · exact h
  · exact .ite (claimWon h.beside _ _) (.ite (h.claimWon _ _) (.ite h.beside h))

theorem ownRelease (h : Moves z s) (u : PerPool Nat) : Moves z (ownRelease u s) :=
  claimingStart h.beside

theorem losePools (h : Moves z s) (lost : PerPool Bool) : Moves z (losePools lost s) :=
  (ite (rereadTold h.beside) h).toldLost _

theorem reclaimedSelf (h : Moves z s) : Moves z (reclaimedSelf s) := losePools h.beside _

theorem engineNotice (h : Moves z s) (r0 : Replica) (own : Bool) (b : Body) (v : Verdict) :
    Moves z (engineNotice r0 own b v s) := by
  unfold Machine.engineNotice
  split
  · exact h.ownClaim _ _ _
  · split
    · exact .ite h.beside h
    · exact h
  · exact h.beside
  · exact h.beside
  · exact h.ownRelease _
  · exact .ite h.reclaimedSelf h
  · exact .ite h.beside h
  · exact .ite h.beside h
  · exact h

theorem rereadParked (h : Moves z s) (s0 : State) : Moves z (rereadParked s0 s) := by
  unfold Machine.rereadParked
  split
  · exact .ite h.rereadTold h
  · exact h

theorem claimEmptied (h : Moves z s) : Moves z (claimEmptied s) := rereadTold h.beside

theorem claimWaiting (h : Moves z s) : Moves z (claimWaiting s) := .ite (claimEmptied h.beside) h

theorem poolsFound (h : Moves z s) (found : PerPool Bool) : Moves z (poolsFound found s) := by
  unfold Machine.poolsFound
  dsimp only
  split
  · exact .ite (tellGrant h.beside) h.beside
  · exact h.beside

theorem reconcile (h : Moves z s) : Moves z (reconcile s) := by
  have recorded : Moves z (takeReservation (takeRecord s)) := h.beside
  have restored (s1 : State) (h1 : Moves z s1) (lost : PerPool Bool) :
      Moves z (if lost.load = true ∧ s1.powered = true then startRestore s1 else s1) := .ite h1.beside h1
  exact claimingStart (toldLost (poolsFound ((restored _ recorded _).beside (unparkUnusable_besideEngine _)) _) _)

theorem engineEntry (h : Moves z s) : Moves z (engineEntry s) :=
  have settled := h.reconcile.beside (settleOwed_besideEngine _) |>.rereadTold
  (settled.setClaim).beside (judgeWatch_besideEngine _)

end Moves

end Sys2Proof.Machine
end

