-- ==== Sys2Proof/Proofs/CommandConduct.lean ====
section
/-! PROOFS. What each command does to the course of a night (`exec_conduct`): a prelude in which the world writes the
other blocks, and the moves of the blocks after it. -/

namespace Sys2Proof.Machine

variable {z s t u : State}

/-! ### The world's part -/

/-- What the world writes before the blocks move: the course of the night and the settings are as they were, a station
that is READING stays LOADING, and the pending newest stays a kind of the emitted marks. -/
structure World (s t : State) : Prop where
  cfg : t.cfg = s.cfg
  loader : t.loader = s.loader
  loading : s.loader.state = .reading → s.member.state = .loading → t.member.state = .loading
  newest : NewestInSet s → NewestInSet t
  course : t.seq.course = s.seq.course

/-- The sequencer and the marks are as they were, and the station has left LOADING or stays in its membership state. -/
theorem World.of_bringUp (cfg : t.cfg = s.cfg) (loader : t.loader = s.loader)
    (loaded : s.loader.state ≠ .reading ∨ s.member.state ≠ .loading ∨ t.member.state = s.member.state)
    (same : t.bringUp = s.bringUp := by simp) : World s t where
  cfg := cfg
  loader := loader
  loading reading loading := by
    obtain loaded | loaded | kept := loaded
    · exact absurd reading loaded
    · exact absurd loading loaded
    · exact kept.trans loading
  newest := (·.congr (marks_of_bringUp same))
  course := congrArg Sequencer.course (seq_of_bringUp same)

/-- The replica, the inputs, the ages or the counter of free values are written, and the sequencer beside its course. -/
theorem World.of_seq (course : t.seq.course = s.seq.course := by rfl) (cfg : t.cfg = s.cfg := by rfl)
    (loader : t.loader = s.loader := by rfl) (gate : t.gate = s.gate := by rfl)
    (member : t.member = s.member := by rfl) : World s t :=
  ⟨cfg, loader, fun _ => (congrArg Member.state member).trans, (·.of_gate gate), course⟩

theorem World.refl (s : State) : World s s := .of_seq

theorem World.setReplica (s : State) (x : Replica) : World s (s.setReplica x) := .of_seq

theorem World.setPins (s : State) (x : Pins) : World s (s.setPins x) := .of_seq

theorem World.setLastHeard (s : State) (x : List Nat) : World s (s.setLastHeard x) := .of_seq

theorem World.setSeq {x : Sequencer} (course : x.course = s.seq.course := by rfl) : World s (s.setSeq x) :=
  .of_seq course

theorem World.of_mayClear (k : MayClear s t) (loaded : s.loader.state ≠ .reading)
    (same : t.bringUp = s.bringUp := by simp) : World s t :=
  k.elim (fun k => .of_bringUp k.cfg k.loader (.inl loaded) same)
    fun ⟨k, _⟩ => .of_bringUp k.cfg k.loader (.inl loaded) same

/-- The world's part of a command, with the moves of a replay out of step (R62). -/
inductive Prelude (s : State) : State → Prop where
  | refl : Prelude s s
  | world {a b : State} (h : Prelude s a) (w : World a b) : Prelude s b
  | move {a b : State} (h : Prelude s a) (out : ¬ a.InSync) (m : Move a b) : Prelude s b

theorem Prelude.trans (h : Prelude z s) (k : Prelude s t) : Prelude z t := by
  induction k with
  | refl => exact h
  | world _ w ih => exact ih.world w
  | move _ out m ih => exact ih.move out m

theorem Moves.sync (h : Moves s t) (sync : t.InSync) : s.InSync := by
  induction h with
  | refl => exact sync
  | tail _ m ih => exact ih (m.sync sync)

/-- Out of step no move enters IN_SYNC. -/
theorem Prelude.moves (h : Prelude z s) (out : ¬ s.InSync) (k : Moves s t) : Prelude z t := by
  induction k with
  | refl => exact h
  | tail k m ih => exact ih.move (fun sync => out (Moves.sync k sync)) m

/-- What a command does to the course of a night; the station is IN_SYNC while the blocks move only if it was before or
is at the end. -/
def Conduct (s t : State) : Prop := ∃ a, Prelude s a ∧ Moves a t ∧ (a.InSync → s.InSync ∨ t.InSync)

namespace Conduct

theorem moves (h : Moves s t) : Conduct s t := ⟨s, .refl, h, .inl⟩

theorem prelude (h : Prelude s t) : Conduct s t := ⟨t, h, .refl t, .inr⟩

theorem world (w : World s t) : Conduct s t := prelude (.world .refl w)

/-- The world writes, and then the blocks move in the membership state that they find. -/
theorem begin (w : World s t) (member : t.member.state = s.member.state) (h : Moves t u) : Conduct s u :=
  ⟨t, .world .refl w, h, fun sync => .inl (member.symm.trans sync)⟩

theorem after (w : World s t) (member : t.member.state = s.member.state) (h : Conduct t u) : Conduct s u := by
  obtain ⟨a, prelude, moves, sync⟩ := h
  exact ⟨a, (Prelude.world .refl w).trans prelude, moves, fun h => (sync h).imp_left member.symm.trans⟩

/-- Moves after it that keep the membership state. -/
theorem andThen (h : Conduct s t) (k : Moves t u) (member : u.member.state = t.member.state) : Conduct s u := by
  obtain ⟨a, prelude, moves, sync⟩ := h
  exact ⟨a, prelude, Relation.ReflTransGen.trans moves k, fun h => (sync h).imp_right member.trans⟩

theorem ite {c : Prop} [Decidable c] (hs : c → Conduct z s) (ht : ¬ c → Conduct z t) :
    Conduct z (if c then s else t) := by
  split
  case isTrue h => exact hs h
  case isFalse h => exact ht h

theorem refl (s : State) : Conduct s s := moves (.refl s)

end Conduct

/-! ### Applying a frame (R36, R41) -/

namespace Moves

theorem applyParts (own : Bool) (n : Nat) (b : Body) (age : Nat) (s : State) :
    Moves (s.setReplica (applyFrame s.replica n b).1) (applyParts own n b age s) := by
  have applied : Moves (s.setReplica (applyFrame s.replica n b).1)
      (nightApplied b age (s.setReplica (applyFrame s.replica n b).1)) :=
    (refl _).still (.nightApplied _ _ (.refl _)) (congrArg Member.state (nightApplied_member ..))
  exact (ite applied (refl _)).engineNotice _ _ _ _

/-- R46: a live application, with its notices. -/
theorem applyLive (own : Bool) (n : Nat) (b : Body) (sync : s.InSync) :
    Moves (s.setReplica (applyFrame s.replica n b).1) (applyLive own n b s) := by
  have applied := (applyParts own n b 0 s).rereadParked s
  have noticed : Moves (s.setReplica (applyFrame s.replica n b).1)
      (nightNotices b (Machine.rereadParked s (Machine.applyParts own n b 0 s))) := by
    refine (applied.beside ((refreshRun0_besideEngine _).trans (workStep_besideEngine _))).nightNotice ?_ _
    rw [State.InSync, refreshRun0_member, workStep_member, rereadParked_member, applyParts_member]
    exact sync
  have told {z s : State} (h : Moves z s) : Moves z (catchUpNotice own n b s) :=
    h.still (.catchUpNotice own n b (.refl s)) (LineKept.catchUpNotice (.refl s) own n b).state
  have gated {z s : State} (r : Replica) (h : Moves z s) :
      Moves z (if gateConcerned r s then Machine.evaluateGate s else s) :=
    .ite h.evaluateGate h
  exact (told (gated _ (ite noticed applied))).beside (judgeWatch_besideEngine _)

/-! ### Entry to IN_SYNC (R64) -/

theorem enterSync (s : State) : Moves (syncEntry s) (enterSync s) := by
  have entered := ((refl (syncEntry s)).engineEntry).beside (workStep_besideEngine _)
  have patient := entered.still (.patienceAtSync (.refl _)) (congrArg Member.state (patienceAtSync_member _))
    (patienceAtSync_bringUp _)
  have marked := patient.evaluateGate.beside (keepMark_besideEngine _)
  refine marked.review ?_
  rw [State.InSync, keepMark_member, evaluateGate_member, patienceAtSync_member, workStep_member, engineEntry_member]
  rfl

end Moves

/-- R64: a station that enters IN_SYNC is IN_SYNC at the end of the command. -/
theorem Conduct.enterSync (h : Prelude s t) (loaded : t.member.state ≠ .loading) : Conduct s (enterSync t) :=
  ⟨syncEntry t, h.world (.of_bringUp rfl rfl (.inr (.inl loaded)) rfl), .enterSync t,
    fun _ => .inr (by rw [State.InSync, enterSync_member]; rfl)⟩

/-! ### Install and replay (R62, R63) -/

theorem runsChange_world (answerer n : Nat) (s : State) : World s (runsChange answerer n s) := .of_seq

/-- R62: the blocks move out of step while the buffer is replayed. -/
theorem Prelude.replay (answerer : Nat) (buffer : List BufferEntry) : ∀ {done : Nat} {s : State},
    Prelude z s → ¬ s.InSync → Prelude z (replay answerer done buffer s) := by
  induction buffer with
  | nil => exact fun h _ => h.world (runsChange_world ..)
  | cons e rest ih =>
    intro done s h out
    have changed := h.world (runsChange_world answerer (e.lastRun - done) s)
    have applied := (changed.world (.setReplica _ (applyFrame _ e.sender e.body).1)).moves out
      (Moves.applyParts e.own e.sender e.body e.age _)
    refine ih applied ?_
    rw [State.InSync, replayFrame, applyParts_member]
    exact out

theorem replay_member (answerer : Nat) (buffer : List BufferEntry) : ∀ (done : Nat) (s : State),
    (replay answerer done buffer s).member = s.member := by
  induction buffer with
  | nil => exact fun _ _ => rfl
  | cons e rest ih => exact fun _ _ => (ih _ _).trans (applyParts_member ..)

theorem Conduct.install (a : Adopted) (collecting : s.member.state = .collecting) : Conduct s (install a s) := by
  have written : World s (countsFromRun0 a.run0
      ((s.setReplica (snapshotReplica s.freeCount a.run0 a.runs)).setFreeCount (s.freeCount + 1))) := .of_seq
  have out : ¬ (countsFromRun0 a.run0 ((s.setReplica (snapshotReplica s.freeCount a.run0 a.runs)).setFreeCount
      (s.freeCount + 1))).InSync := by
    rw [State.InSync]
    exact fun sync => nomatch collecting.symm.trans sync
  refine .enterSync ((Prelude.replay a.answerer s.member.buffer (.world .refl written) out).world
    (.of_bringUp rfl rfl (.inr (.inr rfl)) rfl)) ?_
  rw [recordInstall, setMember_member, replay_member]
  exact fun loading => nomatch collecting.symm.trans loading

/-! ### Hand-over (R46) -/

theorem Conduct.collectingFrame (own : Bool) (n : Nat) (b : Body) (collecting : s.member.state = .collecting) :
    Conduct s (collectingFrame own n b s) := by
  have out : s.member.state ≠ .loading := by rw [collecting]; decide
  have adopted (asker : Byte) (payload : List Byte) : Conduct s (adopt n asker payload s) :=
    .world (.of_bringUp rfl rfl (.inr (.inl out)) rfl)
  have abandoned : Conduct s (abandon s) :=
    .world (.of_bringUp (Kept.abandon (.refl s)).cfg (Kept.abandon (.refl s)).loader (.inr (.inl out)))
  unfold Machine.collectingFrame
  split
  · refine .ite (fun _ => adopted _ _) fun _ => ?_
    unfold collectRun
    exact .ite (fun _ => .ite (fun _ => .install _ collecting)
      fun _ => .world (.of_bringUp rfl rfl (.inr (.inl out)) rfl)) fun _ => abandoned
  · exact .ite (fun _ => adopted _ _) fun _ => abandoned
  · exact .ite (fun _ => .world (.of_bringUp rfl rfl (.inr (.inl out)) rfl)) fun _ => abandoned
  · exact .refl s

theorem Conduct.handOver (own : Bool) (n : Nat) (b : Body) (s : State) : Conduct s (handOver own n b s) := by
  unfold Machine.handOver
  split
  case h_5 joining =>
    have k : Kept s (joiningFrame own n b s) := .joiningFrame own n b (.refl s)
    exact .world (.of_bringUp k.cfg k.loader (.inr (.inl (by rw [joining]; decide))))
  case h_6 collecting => exact .collectingFrame own n b collecting
  case h_7 sync => exact .begin (.setReplica s (applyFrame s.replica n b).1) rfl (.applyLive own n b sync)
  all_goals exact .refl s

/-! ### What a source does when its attempt ends -/

namespace Moves

theorem toldCleared (h : Moves z s) (src : Source) (b : Body) : Moves z (toldCleared src b s) := by
  cases src with
  | order => exact h.setNight
  | night => exact h.beside (workStep_besideEngine _)
  | claim => exact claimEmptied (h.beside (claimLeft_besideEngine _))
  | release => exact h.beside (releaseLost_besideEngine _ _)
  | reclaim => exact h.beside (judgeWatch_besideEngine _)
  | mark => exact h.beside (presentHeldMark_besideEngine _)
  | ask => exact h.beside (askEmptied_besideEngine _)
  | series => exact h.beside (answerAgain_besideEngine _)

theorem toldDelivered (h : Moves z s) (src : Source) (b : Body) : Moves z (toldDelivered src b s) := by
  cases src with
  | claim => exact claimEmptied (h.beside (claimLeft_besideEngine _))
  | mark => exact h.markDelivered b
  | order => exact h.setNight
  | night => exact h.beside (workStep_besideEngine _)
  | release => exact h.beside (releaseDelivered_besideEngine _)
  | reclaim => exact h.beside (judgeWatch_besideEngine _)
  | ask =>
    exact h.still (.askEmptied (.askDelivered (.refl s))) (LineKept.askEmptied (.askDelivered (.refl s))).state
      ((askEmptied_bringUp _).trans (askDelivered_bringUp s))
  | series =>
    exact h.still (.seriesDelivered b (.refl s)) (LineKept.seriesDelivered (.refl s) b).state
      (seriesDelivered_bringUp b s)

/-- A station that leaves its membership state, but neither for IN_SYNC nor from LOADING. -/
theorem leave (h : Moves z s) (k : Kept s t) (out : t.InSync → s.InSync)
    (loaded : s.member.state ≠ .loading ∨ t.member.state = s.member.state) (same : t.bringUp = s.bringUp) :
    Moves z t :=
  have seq := seq_of_bringUp same
  h.step ⟨k.replica, k.cfg, k.loader, out,
    fun _ loading => loaded.elim (absurd loading) fun kept => kept.trans loading,
    (·.congr (marks_of_bringUp same)),
    .stays (congrArg Sequencer.course seq) fun _ => congrArg Sequencer.waking seq⟩

theorem isolate (h : Moves z s) (loaded : s.member.state ≠ .loading) (duplicate : Bool) :
    Moves z (isolate duplicate s) :=
  h.leave (.isolate duplicate (.refl s)) (fun sync => by cases duplicate <;> cases sync) (.inl loaded)
    (isolate_bringUp duplicate s)

/-- R50: an ask dropped at the veto limit leaves the station JOINING or ISOLATED. -/
theorem askDropped (h : Moves z s) : Moves z (askDropped s) := by
  refine dite (fun joining => ?_) fun _ => h
  have counted : Moves z (s.setMember { s.member with askCount := s.member.askCount + 1 }) :=
    h.still (.setMember (.refl s)) rfl
  have loaded : s.member.state ≠ .loading := by rw [joining]; decide
  refine ite (counted.isolate loaded _) ?_
  have asks : Moves z ((s.setMember { s.member with askCount := s.member.askCount + 1 }).setMember
      { s.member with askCount := s.member.askCount + 1, state := .joining }) :=
    counted.leave (.setMember (.refl _)) (fun sync => nomatch sync) (.inl loaded) rfl
  exact asks.beside (placeAsk_besideEngine _)

theorem toldDropped (h : Moves z s) (src : Source) (b : Body) : Moves z (toldDropped src b s) := by
  cases src with
  | order => exact h.setNight
  | night => exact h.beside (workStep_besideEngine _)
  | claim => exact claimEmptied (h.beside ((unparkDropped_besideEngine b _).trans (claimLeft_besideEngine s)))
  | release => exact h.beside (releaseDropped_besideEngine _ _)
  | reclaim => exact h.beside (judgeWatch_besideEngine _)
  | mark => exact h.beside (markDropped_besideEngine _)
  | ask => exact h.askDropped.beside (askEmptied_besideEngine _)
  | series =>
    exact h.still (.seriesDropped b (.refl s)) (LineKept.seriesDropped (.refl s) b).state (seriesDropped_bringUp b s)

theorem slotWaiting (h : Moves z s) (src : Source) : Moves z (slotWaiting src s) := by
  cases src with
  | claim => exact h.claimWaiting
  | night => exact h.beside (workStep_besideEngine _)
  | release => exact h.beside (releaseWaiting_besideEngine _)
  | reclaim => exact h.beside (judgeWatch_besideEngine _)
  | mark => exact h.beside (presentHeldMark_besideEngine _)
  | order => exact h
  | ask => exact h
  | series => exact h

theorem attemptBack (h : Moves z s) (src : Source) (q : Queued) (cleared : Bool) :
    Moves z (attemptBack src q cleared s) :=
  .ite (h.setSlot.toldCleared src q.body) (h.setSlot.slotWaiting src)

theorem ownSlotEmptied (h : Moves z s) (src : Source) (b : Body) (cleared : Bool) :
    Moves z (ownSlotEmptied src b cleared s) :=
  .ite (h.setSlot.toldCleared src b) (h.setSlot.toldDelivered src b)

/-! ### Attempts on the line (R4, R7, R9, R15 to R19) -/

theorem startAttempt (h : Moves z s) : Moves z (startAttempt s) := by
  obtain same | ⟨src, f, -, started⟩ := startAttempt_cases s
  · rwa [same]
  · rw [started]
    exact h.beside

theorem loseArbitration (h : Moves z s) : Moves z (loseArbitration s) := by
  unfold Machine.loseArbitration
  split
  · exact h
  · split
    · exact (h.setRli).attemptBack _ _ _
    · exact h
    · exact h

theorem noteCollision (h : Moves z s) : Moves z (noteCollision s) := by
  refine ite ?_ h.setRli
  unfold duplicateReported
  split
  case h_1 joining => exact h.setRli.isolate (fun loading => nomatch joining.symm.trans loading) _
  case h_2 collecting => exact h.setRli.isolate (fun loading => nomatch collecting.symm.trans loading) _
  case h_3 sync => exact h.setRli.isolate (fun loading => nomatch sync.symm.trans loading) _
  all_goals exact h.setRli

theorem collide (h : Moves z s) : Moves z (collide s) := by
  unfold Machine.collide
  split
  · exact h
  · split
    · exact (h.attemptBack _ _ _).noteCollision
    · exact h
    · exact h

theorem lineSticks (h : Moves z s) : Moves z (lineSticks s) := by
  have back : Moves z (backAtStuck s) := by
    unfold backAtStuck
    split
    · exact h
    · split
      · exact h.attemptBack _ _ _
      · exact h
      · exact h
  exact (back.setRli).raise _

theorem ownVetoed (h : Moves z s) (src : Source) (q : Queued) (cleared : Bool) : Moves z (ownVetoed src q cleared s) :=
  have counted : Moves z (resetVetoRun (countVetoed (s.setRli { s.rli with collisions := 0 }))) := h.beside
  .ite ((counted.setSlot.raise _).toldDropped src q.body) (counted.attemptBack _ _ _)

end Moves

/-! ### The ends of frames (R11, R12, R14, R15) -/

theorem loaded_of_receiving (h : s.receiving = true) : s.loader.state ≠ .reading := by
  simp only [State.receiving, Bool.and_eq_true, bne_iff_ne] at h
  exact h.1

theorem loaded_of_framing (h : s.framing = true) : s.loader.state ≠ .reading := by
  rw [State.framing, Bool.and_eq_true] at h
  exact loaded_of_receiving h.1

namespace Conduct

theorem heardVetoed (faulty : Bool) (loaded : s.loader.state ≠ .reading) : Conduct s (heardVetoed faulty s) :=
  .world (.of_mayClear (.heardVetoed faulty s) loaded)

theorem heardFaulty (loaded : s.loader.state ≠ .reading) : Conduct s (heardFaulty s) :=
  .world (.of_mayClear (.heardFaulty s) loaded (heardVetoed_bringUp true (countRxError s)))

/-- R14: what a delivery counts leaves the course of the night alone. -/
theorem countDelivery_world (own : Bool) (n : Nat) (s : State) : World s (countDelivery own n s) := by
  have k := Carried.countDelivery own n s
  refine .of_bringUp k.cfg k.loader (.inr (.inr (congrArg Member.state (countDelivery_member own n s)))) ?_
  cases own with
  | false => rfl
  | true => exact (bringUp_of_besideEngine (keepRestart_besideEngine (ownCounted n s))).trans rfl

/-- R14: a hand-over after the counting of the delivery. -/
theorem delivered (own : Bool) (n : Nat) (b : Body) (s : State) :
    Conduct s (Machine.handOver own n b (countDelivery own n s)) :=
  .after (countDelivery_world own n s) (congrArg Member.state (countDelivery_member own n s)) (.handOver own n b _)

theorem frameEndsDelivered (f : LineFrame) (s : State) : Conduct s (frameEndsDelivered f s) := by
  unfold Machine.frameEndsDelivered
  split
  · split
    · exact .refl s
    · split
      · exact .ite (fun _ => (delivered true s.cfg.station _ s).andThen (.ownSlotEmptied (.refl _) _ _ _)
          (LineKept.ownSlotEmptied (.refl _) _ _ _).state) fun _ => .refl s
      · exact .refl s
      · exact .refl s
  · refine .ite (fun framing => ?_) fun _ => .refl s
    split
    · exact delivered false _ _ s
    · exact heardFaulty (loaded_of_framing framing)
    · exact heardFaulty (loaded_of_framing framing)
    · exact .refl s

theorem frameEndsVetoed (f : LineFrame) (s : State) : Conduct s (frameEndsVetoed f s) := by
  unfold Machine.frameEndsVetoed
  split
  · split
    · exact .refl s
    · split
      · exact .ite (fun _ => .moves (.ownVetoed (.refl s) _ _ _)) fun _ => .refl s
      · exact .refl s
      · exact .refl s
  · refine .ite (fun framing => ?_) fun _ => .refl s
    split
    · exact heardVetoed _ (loaded_of_framing framing)
    · exact heardFaulty (loaded_of_framing framing)
    · exact heardFaulty (loaded_of_framing framing)
    · exact .refl s

end Conduct

end Sys2Proof.Machine
end

