-- ==== Sys2Proof/Proofs/AttemptLaw.lean ====
section
/-! PROOFS. The conduct of the link's and the power lines' commands, what every command does to the course of a night
(`exec_conduct`), and what follows from it: O8, O45 and O46. -/

namespace Sys2Proof.Machine

variable {z s t u : State} {c : Instr}

/-! ### The desktop link (R155 to R172) -/

namespace Moves

theorem pointTo (h : Moves z s) (address : BitVec 7) (b : Byte) : Moves z (pointTo address b s) := by
  unfold Machine.pointTo
  refine .ite ?_ h.setLink
  split
  · exact h.setLink
  · exact h.setLink

theorem busWrite (h : Moves z s) (r : Register) {effect : State → State} (he : Moves z (effect s)) :
    Moves z (busWrite r effect s) := .ite he.setLink h.setLink

theorem busCommand (h : Moves z s) {effect : State → State} (he : ∀ {s}, Moves z s → Moves z (effect s)) :
    Moves z (busCommand effect s) :=
  h.busWrite _ (.ite h (he h.setLink))

theorem writeData (h : Moves z s) (value : Byte) : Moves z (writeData value s) :=
  .ite (.ite h.setLink (h.setLink.takeReport _ _ _ _).setLink) h

theorem readData (h : Moves z s) : Moves z (readData s) := by
  have told (x : LinkPort) : Moves z (passBegun (s.setLink x)) :=
    .ite h.setLink.setLink (.ite h.setLink.bootRecordRead h.setLink)
  have pass : Moves z (if s.beginsPass then beginPass s else s) := .ite (told _) h
  have driven (b : Byte) : Moves z (busDrives b (if s.beginsPass then beginPass s else s)) := pass.setLink
  have advanced {s : State} (h : Moves z s) : Moves z (advanceIndex s) := .ite h.setLink h.setLink
  exact advanced (ite (driven _).setLink (driven _))

theorem busRead (h : Moves z s) (address : BitVec 7) (position : Nat) : Moves z (busRead address position s) := by
  have ended : Moves z (endWrite s) := h.setLink
  have copied : Moves z (copyEvents position (endWrite s)) := .ite ended.setLink ended
  have events : Moves z (readEvents position (endWrite s)) := by
    unfold readEvents
    split
    · exact ended.setLink
    · exact .ite (setLink (copied.setLink (x := _))) ended.setLink
  refine .ite ?_ ended.setLink
  unfold readRegister
  split
  · exact ended.readData
  · exact events
  all_goals exact ended.setLink

theorem writeEvents (h : Moves z s) (position : Nat) (value : Byte) : Moves z (writeEvents position value s) := by
  unfold Machine.writeEvents
  split
  · exact h
  · exact h.setLink

theorem takeCommand {code : Byte} (h : Moves z s) (other : code ≠ 0x01) (argument : Byte) :
    Moves z (takeCommand code argument s) := by
  unfold Machine.takeCommand
  rw [if_neg other]
  exact .ite h.setLink.setLink h.setLink

end Moves

/-- R70, R172: a command that may be REJOIN is taken once LOADING has ended. -/
theorem Conduct.busCommand {effect : State → State} (he : ∀ s, MayClear s (effect s))
    (same : ∀ s, (effect s).bringUp = s.bringUp) : Conduct s (busCommand effect s) := by
  unfold Machine.busCommand busWrite
  refine .ite (fun takes => ?_) fun _ => .moves (Moves.refl s).setLink
  have loaded : s.loader.state ≠ .reading := ((takesWrite_iff s .command).mp takes).1
  refine .andThen (.ite (fun _ => .refl s) fun _ => .world ?_) (Moves.refl _).setLink rfl
  have written : Carried s (s.setLink { s.link with commandDone := true }) := (Carried.refl s).congr
  exact .of_mayClear (.carry written (he _)) loaded (same _)

theorem takeRejoin_bringUp (s : State) : (takeRejoin s).bringUp = s.bringUp := by
  unfold takeRejoin
  split_ifs
  · rfl
  · exact rejoinStation_bringUp s

/-! ### The power lines and the sequencer's timers (R129, R130, R137 to R147, R151, R152) -/

namespace Moves

/-- R139: POWER_GOOD rises within the good limit. -/
theorem settleStart (h : Moves z s) (awaits : s.seq.state = .awaitGood) :
    Moves z (s.setSeq { s.seq with state := .settle, good := .stopped, settle := .running Config.settle }) :=
  h.step (.kept (.setSeq (.refl s)) rfl (·.of_gate rfl)
    (.enters .settle (by rw [awaits]; rfl) (by rw [awaits]; exact nofun) rfl))

theorem powerGoodRises (h : Moves z s) : Moves z (powerGoodRises s) := by
  unfold Machine.powerGoodRises
  split
  case h_1 awaits => exact h.settleStart awaits
  case h_2 gated => exact h.localEntry (by rw [gated]; rfl)
  case h_3 claiming => exact h.localEntry (by rw [claiming]; rfl)
  all_goals exact h

theorem powerGoodFalls (h : Moves z s) : Moves z (powerGoodFalls s) := by
  unfold Machine.powerGoodFalls
  split
  case h_1 settles => exact h.failAttempt (by rw [settles]; rfl) _
  case h_2 booting => exact h.failAttempt (by rw [booting]; rfl) _
  case h_3 imaging => exact h.failAttempt (by rw [imaging]; rfl) _
  case h_4 finishing => exact h.finishDone finishing
  all_goals exact h

end Moves

namespace Conduct

theorem powerGoodRises (s : State) (x : Pins) : Conduct s (powerGoodRises (s.setPins x)) :=
  .begin (.setPins s x) rfl (Moves.refl _).powerGoodRises

theorem powerGoodFalls (s : State) (x : Pins) : Conduct s (powerGoodFalls (s.setPins x)) :=
  .begin (.setPins s x) rfl (Moves.refl _).powerGoodFalls

theorem pressBegin (s : State) : Conduct s (pressBegins (s.setPins { s.pins with panelButton := true })) := by
  have passed : World s (passPress (s.setPins { s.pins with panelButton := true })) := .of_seq
  have held : World s (holdPress (s.setPins { s.pins with panelButton := true })) := .of_seq
  unfold pressBegins
  split
  case h_6 gated =>
    exact .begin passed rfl ((Moves.refl _).localEntry (by exact congrArg (SeqState.leadsTo · _) gated))
  case h_7 claiming =>
    exact .begin passed rfl ((Moves.refl _).localEntry (by exact congrArg (SeqState.leadsTo · _) claiming))
  case h_1 | h_2 | h_3 | h_4 | h_5 => exact .world passed
  all_goals exact .world held

/-- R152: a long press stops the phase timers and takes the station to LOCAL. -/
theorem longPress (w : World s t) (member : t.member.state = s.member.state)
    (leads : t.seq.state.leadsTo .localUse = true) : Conduct s (longPress t) :=
  .after w member (.begin (.setSeq (x := { t.seq with
      good := .stopped, settle := .stopped, contactTimer := .stopped, progressTimer := .stopped
      shutdown := .stopped, cooldown := .stopped, go := false })) rfl ((Moves.refl _).localEntry leads))

theorem pressHeldOut (s : State) : Conduct s (pressHeldOut s) := by
  have passed : World s ((passPress s).setSeq { (passPress s).seq with pressTimer := .stopped }) := .of_seq
  unfold Machine.pressHeldOut
  dsimp only
  split
  case h_9 | h_10 | h_11 | h_12 | h_13 => exact .world passed
  all_goals
    rename_i state
    exact longPress passed rfl (by rw [state]; rfl)

theorem shutdownRunsOut (finishing : s.seq.state = .finishing) : Conduct s (shutdownRunsOut s) :=
  .begin (.setSeq (x := { s.seq with permit := false, outcome := { s.seq.outcome with noShutdown := true } })) rfl
    ((Moves.refl _).finishDone finishing)

/-- R147: the COOLDOWN ends with the inputs as they are sampled. -/
theorem cooldownOver (supplyReq : Bool) (cool : s.seq.state = .cooldown) : Conduct s (cooldownOver supplyReq s) := by
  refine .after (.setPins s { s.pins with supplyReq := supplyReq }) rfl ?_
  exact .begin (.setSeq (x := { s.seq with cooldown := .stopped, permit := s.seq.permit || !supplyReq })) rfl
    ((Moves.refl _).cooldownEnds cool)

end Conduct

/-! ### Every command -/

/-- R173, R175, R176: what the loader's verdict does. -/
structure Configured (s t : State) : Prop where
  reading : s.loader.state = .reading
  loaded : t.loader.state ≠ .reading
  retry : t.cfg = s.cfg ∨ t.cfg.retryLimit ≤ 3
  same : t.bringUp = s.bringUp

/-- What a command is to the course of a night: the cold start, the loader's verdict, or any other. -/
inductive Conducted (c : Instr) (s t : State) : Prop where
  | cold (powerGood supplyReq panelButton : Bool) (hc : c = .coldStart powerGood supplyReq panelButton)
      (ht : t = (State.cold ⟨supplyReq, powerGood, panelButton⟩ s.pending).setFreeCount s.freeCount)
  | configured (k : Configured s t)
  | conduct (k : Conduct s t)

/-- What a command that is neither a cold start nor a verdict does. -/
def Conducts (c : Instr) (s : State) : Prop := ∃ t, exec c s = .next t ∧ Conduct s t

theorem configFault_configured (reading : s.loader.state = .reading) : Configured s (configFault s) :=
  ⟨reading, nofun, .inl rfl, rfl⟩

/-- R175: a block that passes the tests names a retry limit of at most 3. -/
theorem readSettings_retryLimit {block : List Byte} (valid : blockValid block = true) :
    (readSettings block).retryLimit ≤ 3 := by
  simp only [blockValid, Bool.and_eq_true, decide_eq_true_eq] at valid
  obtain ⟨⟨⟨⟨-, retry⟩, -⟩, -⟩, -⟩ := valid
  exact retry

theorem configValid_configured {block : List Byte} (reading : s.loader.state = .reading)
    (valid : blockValid block = true) : Configured s (configValid block s) := by
  have k : Kept _ (configValid block s) := .joinEntry (.refl _)
  refine ⟨reading, ?_, .inr ?_, joinEntry_bringUp _⟩
  · rw [k.loader]
    exact fun h => nomatch h
  · rw [k.cfg]
    exact readSettings_retryLimit valid

/-! The loader and the line -/

theorem configReadDone_conducted (block : List Byte) (s : State) :
    ∃ t, exec (.configReadDone block) s = .next t ∧ Conducted (.configReadDone block) s t := by
  refine ⟨_, rfl, ?_⟩
  split
  case isTrue reads =>
    split
    case isTrue valid => exact .configured (configValid_configured reads.1 valid)
    case isFalse => exact .configured (configFault_configured reads.1)
  case isFalse => exact .conduct (.refl s)

theorem readLimitExpiry_conducted (s : State) :
    ∃ t, exec .readLimitExpiry s = .next t ∧ Conducted .readLimitExpiry s t := by
  refine ⟨_, rfl, ?_⟩
  split
  case isTrue reads => exact .configured (configFault_configured reads.1)
  case isFalse => exact .conduct (.refl s)

theorem attemptStart_conducts (s : State) : Conducts .attemptStart s :=
  ⟨_, rfl, .moves (Moves.refl s).startAttempt⟩

theorem lostArbitration_conducts (s : State) : Conducts .lostArbitration s :=
  ⟨_, rfl, .moves (Moves.refl s).loseArbitration⟩

theorem collision_conducts (s : State) : Conducts .collision s :=
  ⟨_, rfl, .moves (Moves.refl s).collide⟩

theorem lostFraming_conducts (s : State) : Conducts .lostFraming s :=
  ⟨_, rfl, .ite (fun framing => .heardFaulty (loaded_of_framing framing)) fun _ => .refl s⟩

theorem frameDelivered_conducts (f : LineFrame) (s : State) : Conducts (.frameDelivered f) s :=
  ⟨_, rfl, .frameEndsDelivered f s⟩

theorem frameVetoed_conducts (f : LineFrame) (s : State) : Conducts (.frameVetoed f) s :=
  ⟨_, rfl, .frameEndsVetoed f s⟩

theorem stuckLine_conducts (s : State) : Conducts .stuckLine s :=
  ⟨_, rfl, .moves (.ite (Moves.refl s).lineSticks (.refl s))⟩

theorem stuckLineClear_conducts (s : State) : Conducts .stuckLineClear s :=
  ⟨_, rfl, .moves (Moves.refl s).setRli⟩

theorem orderMessage_conducts (line : LineBytes) (s : State) : Conducts (.orderMessage line) s := by
  refine ⟨_, rfl, .moves (.ite ?_ (.refl s))⟩
  exact (Moves.refl s).still (.orderSilence line (.refl s)) (congrArg Member.state (orderSilence_member line s))
    (orderSilence_bringUp line s)

/-! The link -/

theorem pointerWrite_conducts (address : BitVec 7) (byte : Byte) (s : State) :
    Conducts (.pointerWrite address byte) s :=
  ⟨_, rfl, .moves ((Moves.refl s).pointTo address byte)⟩

theorem viewWrite_conducts (value : Byte) (s : State) : Conducts (.viewWrite value) s :=
  ⟨_, rfl, .moves ((Moves.refl s).busWrite _ (.ite (Moves.refl s).setLink (.refl s)))⟩

theorem indexWrite_conducts (value : Byte) (s : State) : Conducts (.indexWrite value) s :=
  ⟨_, rfl, .moves ((Moves.refl s).busWrite _ (Moves.refl s).setLink)⟩

theorem stationWrite_conducts (value : Byte) (s : State) : Conducts (.stationWrite value) s :=
  ⟨_, rfl, .moves ((Moves.refl s).busWrite _ (.ite (Moves.refl s).setLink (.refl s)))⟩

theorem dataRead_conducts (address : BitVec 7) (s : State) : Conducts (.dataRead address) s :=
  ⟨_, rfl, .moves ((Moves.refl s).busRead address 0)⟩

theorem dataWrite_conducts (value : Byte) (s : State) : Conducts (.dataWrite value) s :=
  ⟨_, rfl, .moves ((Moves.refl s).busWrite _ ((Moves.refl s).writeData value))⟩

theorem eventsRead_conducts (address : BitVec 7) (position : Nat) (s : State) :
    Conducts (.eventsRead address position) s :=
  ⟨_, rfl, .moves ((Moves.refl s).busRead address position)⟩

theorem eventsWrite_conducts (position : Nat) (value : Byte) (s : State) : Conducts (.eventsWrite position value) s :=
  ⟨_, rfl, .moves ((Moves.refl s).busWrite _ ((Moves.refl s).writeEvents position value))⟩

theorem eventMaskWrite_conducts (position : Nat) (value : Byte) (s : State) :
    Conducts (.eventMaskWrite position value) s :=
  ⟨_, rfl, .moves ((Moves.refl s).busWrite _ (.ite (Moves.refl s).setLink (.refl s)))⟩

theorem probe_conducts (argument : Byte) (s : State) : Conducts (.probe argument) s :=
  ⟨_, rfl, .moves ((Moves.refl s).busCommand fun h => h.setLink.setLink)⟩

theorem rejoin_conducts (argument : Byte) (s : State) : Conducts (.rejoin argument) s :=
  ⟨_, rfl, .busCommand .takeRejoin takeRejoin_bringUp⟩

theorem unknownCommand_conducts (code argument : Byte) (s : State) : Conducts (.unknownCommand code argument) s := by
  refine ⟨_, rfl, ?_⟩
  by_cases rejoin : code = 0x01
  · refine .busCommand (.takeCommand code argument) fun s => ?_
    rw [takeCommand, if_pos rejoin, takeRejoin_bringUp]
  · exact .moves ((Moves.refl s).busCommand fun h => h.takeCommand rejoin argument)

/-! Membership and the Night Unit -/

theorem askWaitExpiry_conducts (s : State) : Conducts .askWaitExpiry s := by
  refine ⟨_, rfl, .ite (fun ⟨_, joining⟩ => ?_) fun _ => .refl s⟩
  have loaded : s.member.state ≠ .loading := by rw [joining]; decide
  have stopped : World s (s.setMember { s.member with askWait := .stopped }) := .of_bringUp rfl rfl (.inr (.inr rfl))
  have k : Kept s (askUnsuccessful (s.setMember { s.member with askWait := .stopped })) :=
    .askUnsuccessful (.setMember (.refl s))
  refine .ite (fun _ => .enterSync ((Prelude.world .refl stopped).world
    (.of_bringUp (t := recordInstall 0 0 _) rfl rfl (.inr (.inr rfl)) rfl)) loaded) fun _ => ?_
  exact .world (.of_bringUp k.cfg k.loader (.inr (.inl loaded)))

theorem seriesGapExpiry_conducts (s : State) : Conducts .seriesGapExpiry s := by
  refine ⟨_, rfl, .ite (fun ⟨_, collecting⟩ => ?_) fun _ => .refl s⟩
  have k : Kept s (seriesGapOver s) := .seriesGapOver (.refl s)
  exact .world (.of_bringUp k.cfg k.loader (.inr (.inl (by rw [collecting]; decide))))

theorem seriesWatchGapExpiry_conducts (s : State) : Conducts .seriesWatchGapExpiry s := by
  refine ⟨_, rfl, .moves (.ite ?_ (.refl s))⟩
  exact (Moves.refl s).still (.watchGapOver (.refl s))
    (LineKept.endWatch (.ite (.refl s) (.stopSeries (.refl s)))).state (by simp [watchGapOver])

theorem seriesPauseEnd_conducts (s : State) : Conducts .seriesPauseEnd s := by
  refine ⟨_, rfl, .moves (.ite ?_ (.refl s))⟩
  exact (Moves.refl s).still (.placeRun _ (.refl s)) (LineKept.placeRun (.refl s) _).state

theorem isolatedCooldownExpiry_conducts (s : State) : Conducts .isolatedCooldownExpiry s := by
  refine ⟨_, rfl, .ite (fun ⟨_, isolated⟩ => ?_) fun _ => .refl s⟩
  have k := (Cleared.rejoinStation s).carried
  exact .world (.of_bringUp k.cfg k.loader (.inr (.inl (by rw [isolated]; decide))))

theorem nightCountExpiry_conducts (count : NightCount) (s : State) : Conducts (.nightCountExpiry count) s := by
  refine ⟨_, rfl, .moves (.ite ?_ (.refl s))⟩
  have expired := (Moves.refl s).still (.expireCount count (.refl s))
    (congrArg Member.state (expireCount_member count s)) (expireCount_bringUp count s)
  exact expired.beside (workStep_besideEngine _)

theorem claimAgeExpiry_conducts (s : State) : Conducts .claimAgeExpiry s := by
  refine ⟨_, rfl, .moves (.ite ?_ (.refl s))⟩
  unfold claimAgeOver
  split
  · exact Moves.claimEmptied (Moves.refl s).beside
  · exact (Moves.refl s).setClaim
  · exact (Moves.refl s).beside

theorem run0SecondTick_conducts (s : State) : Conducts .run0SecondTick s :=
  ⟨_, rfl, .moves ((Moves.refl s).beside (refreshRun0_besideEngine s))⟩

theorem keepTimerExpiry_conducts (s : State) : Conducts .keepTimerExpiry s :=
  ⟨_, rfl, .moves (.ite ((Moves.refl s).setClaim.beside (keepMark_besideEngine _)) (.refl s))⟩

theorem lastHeardTick_conducts (s : State) : Conducts .lastHeardTick s :=
  ⟨_, rfl, .ite (fun _ => .refl s) fun _ =>
      .begin (.setLastHeard s (passSecond s.lastHeard)) rfl ((Moves.refl _).beside (judgeWatch_besideEngine _))⟩

/-! The power lines and the sequencer's timers -/

theorem powerGoodRise_conducts (s : State) : Conducts .powerGoodRise s :=
  ⟨_, rfl, .ite (fun _ => .refl s) fun _ => .powerGoodRises s _⟩

theorem powerGoodFall_conducts (s : State) : Conducts .powerGoodFall s :=
  ⟨_, rfl, .ite (fun _ => .powerGoodFalls s _) fun _ => .refl s⟩

theorem supplyReqRelease_conducts (s : State) : Conducts .supplyReqRelease s :=
  ⟨_, rfl, .ite (fun _ => .world .of_seq) fun _ => .world .of_seq⟩

theorem pressBegin_conducts (s : State) : Conducts .pressBegin s :=
  ⟨_, rfl, .ite (fun _ => .refl s) fun _ => .pressBegin s⟩

theorem pressEnd_conducts (s : State) : Conducts .pressEnd s :=
  ⟨_, rfl, .ite (fun _ => .world .of_seq) fun _ => .refl s⟩

theorem pressTimerExpiry_conducts (s : State) : Conducts .pressTimerExpiry s :=
  ⟨_, rfl, .ite (fun _ => .pressHeldOut s) fun _ => .refl s⟩

theorem wakePulseEnd_conducts (s : State) : Conducts .wakePulseEnd s :=
  ⟨_, rfl, .world .of_seq⟩

theorem goodLimitExpiry_conducts (s : State) : Conducts .goodLimitExpiry s :=
  ⟨_, rfl, .ite
      (fun ⟨_, awaits⟩ => .moves ((Moves.refl s).failAttempt (by rw [awaits]; rfl) _)) fun _ => .refl s⟩

theorem settleExpiry_conducts (s : State) : Conducts .settleExpiry s :=
  ⟨_, rfl, .ite (fun ⟨_, settles⟩ => .moves ((Moves.refl s).settleEnds settles)) fun _ => .refl s⟩

theorem shutdownTimerExpiry_conducts (s : State) : Conducts .shutdownTimerExpiry s :=
  ⟨_, rfl, .ite (fun ⟨_, finishing⟩ => .shutdownRunsOut finishing) fun _ => .refl s⟩

theorem gatePatienceExpiry_conducts (s : State) : Conducts .gatePatienceExpiry s := by
  refine ⟨_, rfl, .moves ?_⟩
  split
  · rename_i night _
    have elapsed : Moves s (s.setGate { s.gate with patience := .elapsed night }) :=
      (Moves.refl s).setGate (·.congr ⟨rfl, rfl⟩)
    exact elapsed.evaluateGate
  · exact .refl s
  · exact .refl s

theorem contactTimerExpiry_conducts (s : State) : Conducts .contactTimerExpiry s := by
  refine ⟨_, rfl, .ite (fun ⟨_, _, booted⟩ => .moves ((Moves.refl s).failAttempt ?_ _)) fun _ => .refl s⟩
  obtain booting | imaging := booted
  · rw [booting]; rfl
  · rw [imaging]; rfl

theorem progressTimerExpiry_conducts (s : State) : Conducts .progressTimerExpiry s := by
  refine ⟨_, rfl, .ite (fun ⟨_, booted⟩ => .moves ((Moves.refl s).failAttempt ?_ _)) fun _ => .refl s⟩
  obtain booting | imaging := booted
  · rw [booting]; rfl
  · rw [imaging]; rfl

theorem cooldownExpiry_conducts (supplyReq : Bool) (s : State) : Conducts (.cooldownExpiry supplyReq) s :=
  ⟨_, rfl, .ite (fun ⟨_, cool⟩ => .cooldownOver supplyReq cool) fun _ => .refl s⟩

theorem Conducts.conducted (h : Conducts c s) : ∃ t, exec c s = .next t ∧ Conducted c s t := by
  obtain ⟨t, run, conduct⟩ := h
  exact ⟨t, run, .conduct conduct⟩

/-- What each command does to the course of a night. -/
theorem exec_conducted (s : State) : ∀ c : Instr, ∃ t, exec c s = .next t ∧ Conducted c s t
  | .coldStart p q r => ⟨_, rfl, .cold p q r rfl rfl⟩
  | .configReadDone block => configReadDone_conducted block s
  | .readLimitExpiry => readLimitExpiry_conducted s
  | .attemptStart => (attemptStart_conducts s).conducted
  | .lostArbitration => (lostArbitration_conducts s).conducted
  | .collision => (collision_conducts s).conducted
  | .lostFraming => (lostFraming_conducts s).conducted
  | .frameDelivered f => (frameDelivered_conducts f s).conducted
  | .frameVetoed f => (frameVetoed_conducts f s).conducted
  | .stuckLine => (stuckLine_conducts s).conducted
  | .stuckLineClear => (stuckLineClear_conducts s).conducted
  | .orderMessage line => (orderMessage_conducts line s).conducted
  | .pointerWrite address byte => (pointerWrite_conducts address byte s).conducted
  | .viewWrite value => (viewWrite_conducts value s).conducted
  | .indexWrite value => (indexWrite_conducts value s).conducted
  | .stationWrite value => (stationWrite_conducts value s).conducted
  | .dataRead address => (dataRead_conducts address s).conducted
  | .dataWrite value => (dataWrite_conducts value s).conducted
  | .eventsRead address position => (eventsRead_conducts address position s).conducted
  | .eventsWrite position value => (eventsWrite_conducts position value s).conducted
  | .eventMaskWrite position value => (eventMaskWrite_conducts position value s).conducted
  | .rejoin argument => (rejoin_conducts argument s).conducted
  | .probe argument => (probe_conducts argument s).conducted
  | .unknownCommand code argument => (unknownCommand_conducts code argument s).conducted
  | .powerGoodRise => (powerGoodRise_conducts s).conducted
  | .powerGoodFall => (powerGoodFall_conducts s).conducted
  | .supplyReqRelease => (supplyReqRelease_conducts s).conducted
  | .pressBegin => (pressBegin_conducts s).conducted
  | .pressEnd => (pressEnd_conducts s).conducted
  | .pressTimerExpiry => (pressTimerExpiry_conducts s).conducted
  | .askWaitExpiry => (askWaitExpiry_conducts s).conducted
  | .seriesGapExpiry => (seriesGapExpiry_conducts s).conducted
  | .seriesWatchGapExpiry => (seriesWatchGapExpiry_conducts s).conducted
  | .seriesPauseEnd => (seriesPauseEnd_conducts s).conducted
  | .isolatedCooldownExpiry => (isolatedCooldownExpiry_conducts s).conducted
  | .nightCountExpiry count => (nightCountExpiry_conducts count s).conducted
  | .run0SecondTick => (run0SecondTick_conducts s).conducted
  | .claimAgeExpiry => (claimAgeExpiry_conducts s).conducted
  | .keepTimerExpiry => (keepTimerExpiry_conducts s).conducted
  | .lastHeardTick => (lastHeardTick_conducts s).conducted
  | .gatePatienceExpiry => (gatePatienceExpiry_conducts s).conducted
  | .wakePulseEnd => (wakePulseEnd_conducts s).conducted
  | .goodLimitExpiry => (goodLimitExpiry_conducts s).conducted
  | .settleExpiry => (settleExpiry_conducts s).conducted
  | .contactTimerExpiry => (contactTimerExpiry_conducts s).conducted
  | .progressTimerExpiry => (progressTimerExpiry_conducts s).conducted
  | .shutdownTimerExpiry => (shutdownTimerExpiry_conducts s).conducted
  | .cooldownExpiry supplyReq => (cooldownExpiry_conducts supplyReq s).conducted

theorem exec_conduct (run : exec c s = .next t) : Conducted c s t := by
  obtain ⟨u, ends, conducted⟩ := exec_conducted s c
  obtain rfl := Host.Outcome.next.inj (run.symm.trans ends)
  exact conducted

end Sys2Proof.Machine
end

