-- ==== Sys2Proof/Proofs/AttemptsKept.lean ====
section
/-! PROOFS. What the turns of the sequencer keep over every command: the law of the attempts and the pending newest
(O8). -/

namespace Sys2Proof.Machine

variable {s t a : State} {c : Instr}

/-! ### The law of the attempts (R138, R146) -/

/-- R138, R146: the part of the law of the attempts that the course of a night shows. -/
structure Course.Lawful (c : Course) (retry : Nat) : Prop where
  used : c.attempt = c.used
  limit : c.used ≤ retry + 1
  waiting : c.state = .gated ∨ c.state = .claiming → c.used ≤ retry
  causes : c.causes ≤ c.used
  failing : c.state.canFail = true → c.causes < c.used
  untouched : c.state = .standby → c.used = 0 ∧ c.progress = 0

/-- R173: while the settings are read nothing has begun. -/
def NothingBegun (s : State) : Prop :=
  s.loader.state = .reading → s.member.state = .loading ∧ s.seq.course.used = 0
    ∧ (s.seq.course.state = .standby ∨ s.seq.course.state = .localUse)

theorem attemptLaw_iff :
    AttemptLaw s ↔ s.cfg.retryLimit ≤ 3 ∧ s.seq.course.Lawful s.cfg.retryLimit ∧ NothingBegun s :=
  ⟨fun h => ⟨h.retry, ⟨h.used, h.limit, h.waiting, h.causes, h.failing, h.untouched⟩, h.loading⟩,
    fun ⟨retry, h, begun⟩ => ⟨retry, h.used, h.limit, h.waiting, h.causes, h.failing, h.untouched, begun⟩⟩

/-- 7.2: no way leads from STANDBY or LOCAL, none to STANDBY or AWAIT_GOOD; an attempt is under way after it only if it
was before it, and a station comes to wait only from a wait or from COOLDOWN. -/
theorem SeqState.leadsTo_cases {a b : SeqState} (h : a.leadsTo b = true) :
    (a ≠ .standby ∧ a ≠ .localUse) ∧ (b ≠ .standby ∧ b ≠ .awaitGood) ∧ (b.canFail = true → a.canFail = true)
      ∧ (b = .gated ∨ b = .claiming → (a = .gated ∨ a = .claiming) ∨ a = .cooldown) := by
  unfold leadsTo at h
  split at h <;> simp_all [SeqState.canFail]

/-- R133 to R136: a state that a night is taken up in. -/
theorem SeqState.takenUp_cases {a : SeqState} (h : a.takenUp = true) :
    a.canFail = false ∧ a ≠ .standby ∧ a ≠ .awaitGood := by
  unfold takenUp at h
  split at h <;> simp_all [SeqState.canFail]

theorem SeqState.canFail_cases {a : SeqState} (h : a.canFail = true) : a ≠ .standby ∧ a ≠ .localUse := by
  unfold canFail at h
  split at h <;> simp_all

/-- R138: what a ready wake shows. -/
theorem wakeReady_spec (h : s.wakeReady = true) :
    s.InSync ∧ s.seq.state = .claiming ∧ s.shownHold .surge = s.cfg.cost.surge
      ∧ s.shownHold .load = s.cfg.cost.load := by
  simp only [State.wakeReady, Bool.and_eq_true, beq_iff_eq] at h
  obtain ⟨⟨⟨claiming, sync⟩, surge⟩, load⟩ := h
  exact ⟨sync, claiming, surge, load⟩

/-- Every turn keeps the law of the attempts. -/
theorem Turn.lawful (turn : Turn s t) (h : s.seq.course.Lawful s.cfg.retryLimit) :
    t.seq.course.Lawful s.cfg.retryLimit := by
  cases turn with
  | stays course => rwa [course]
  | enters st leads left course =>
    obtain ⟨-, ⟨standby, -⟩, attempted, waited⟩ := SeqState.leadsTo_cases leads
    rw [course]
    refine ⟨h.used, h.limit, fun waits => ?_, h.causes, fun can => h.failing (attempted can),
      fun is => absurd is standby⟩
    exact (waited waits).elim h.waiting fun cool => left cool waits
  | fails can course =>
    have failing := h.failing can
    rw [course]
    exact ⟨h.used, h.limit, nofun, failing, nofun, nofun⟩
  | wakes ready course =>
    have left := h.waiting (.inr (wakeReady_spec ready).2.1)
    rw [course]
    exact ⟨congrArg (· + 1) h.used, Nat.succ_le_succ left, nofun, Nat.le_succ_of_le h.causes,
      fun _ => Nat.lt_succ_of_le h.causes, nofun⟩
  | takesUp sync older st entered course =>
    obtain ⟨ended, standby, -⟩ := SeqState.takenUp_cases entered
    rw [course]
    exact ⟨rfl, Nat.zero_le _, fun _ => Nat.zero_le _, le_rfl, fun can => absurd can (by simp [ended]),
      fun is => absurd is standby⟩
  | reports progress rises reporting course =>
    rw [course]
    refine ⟨h.used, h.limit, h.waiting, h.causes, h.failing, fun standby => ?_⟩
    obtain booting | imaging := reporting
    · exact nomatch booting.symm.trans standby
    · exact nomatch imaging.symm.trans standby

/-- While the settings are read no turn but the one that leaves the course as it is can be taken. -/
theorem Move.nothingBegun (m : Move s t) (h : NothingBegun s) : NothingBegun t := by
  intro reading
  have read : s.loader.state = .reading := by rwa [m.loader] at reading
  obtain ⟨loading, used, state⟩ := h read
  have out : ¬ s.InSync := fun sync => nomatch loading.symm.trans sync
  refine ⟨m.loading read loading, ?_⟩
  cases m.turn with
  | stays course => rw [course]; exact ⟨used, state⟩
  | enters st leads =>
    obtain ⟨⟨standby, localUse⟩, -⟩ := SeqState.leadsTo_cases leads
    exact absurd state (not_or.mpr ⟨standby, localUse⟩)
  | fails can => exact absurd state (not_or.mpr (SeqState.canFail_cases can))
  | wakes ready => exact absurd (wakeReady_spec ready).1 out
  | takesUp sync => exact absurd sync out
  | reports _ _ reporting =>
    have waits : ¬ (s.seq.state = .standby ∨ s.seq.state = .localUse) := by
      obtain booting | imaging := reporting
      · rw [booting]; exact nofun
      · rw [imaging]; exact nofun
    exact absurd state waits

theorem Move.attemptLaw (m : Move s t) (h : AttemptLaw s) : AttemptLaw t := by
  obtain ⟨retry, lawful, begun⟩ := attemptLaw_iff.mp h
  refine attemptLaw_iff.mpr ⟨?_, ?_, m.nothingBegun begun⟩
  · rwa [m.cfg]
  · rw [m.cfg]
    exact m.turn.lawful lawful

theorem World.attemptLaw (w : World s t) (h : AttemptLaw s) : AttemptLaw t := by
  obtain ⟨retry, lawful, begun⟩ := attemptLaw_iff.mp h
  refine attemptLaw_iff.mpr ⟨?_, ?_, fun reading => ?_⟩
  · rwa [w.cfg]
  · rwa [w.cfg, w.course]
  · have read : s.loader.state = .reading := by rwa [w.loader] at reading
    obtain ⟨loading, untouched⟩ := begun read
    rw [w.course]
    exact ⟨w.loading read loading, untouched⟩

/-- What the moves keep. -/
theorem Moves.keeps {P : State → Prop} (move : ∀ {s t}, Move s t → P s → P t) (h : Moves s t) (p : P s) : P t := by
  induction h with
  | refl => exact p
  | tail _ m ih => exact move m ih

/-- What the world's writes and the moves keep, a command keeps. -/
theorem Conduct.keeps {P : State → Prop} (world : ∀ {s t}, World s t → P s → P t)
    (move : ∀ {s t}, Move s t → P s → P t) (h : Conduct s t) (p : P s) : P t := by
  obtain ⟨a, prelude, moves, -⟩ := h
  refine moves.keeps move ?_
  clear moves
  induction prelude with
  | refl => exact p
  | world _ w ih => exact world w ih
  | move _ _ m ih => exact move m ih

/-- R173, R175: the verdict finds nothing begun, and hands out a retry limit of at most 3. -/
theorem Configured.attemptLaw (k : Configured s t) (h : AttemptLaw s) : AttemptLaw t := by
  have same := seq_of_bringUp k.same
  obtain ⟨-, used, state⟩ := h.loading k.reading
  refine attemptLaw_iff.mpr ⟨k.retry.elim (fun cfg => cfg ▸ h.retry) id, ?_, fun reading => absurd reading k.loaded⟩
  rw [same]
  exact ⟨h.used, used.trans_le (Nat.zero_le _), fun _ => used.trans_le (Nat.zero_le _), h.causes, h.failing,
    h.untouched⟩

theorem attemptLaw_cold (p q r : Bool) (commands : List Instr) (free : Nat) :
    AttemptLaw ((State.cold ⟨q, p, r⟩ commands).setFreeCount free) := by
  have early : (Sequencer.cold p).state = .standby ∨ (Sequencer.cold p).state = .localUse := by
    cases p
    · exact .inl rfl
    · exact .inr rfl
  refine attemptLaw_iff.mpr ⟨Nat.zero_le _, ?_, fun _ => ⟨rfl, rfl, early⟩⟩
  refine ⟨rfl, Nat.zero_le _, fun _ => Nat.zero_le _, le_rfl, fun can => ?_, fun _ => ⟨rfl, rfl⟩⟩
  exact absurd early (not_or.mpr (SeqState.canFail_cases can))

theorem exec_attemptLaw (run : exec c s = .next t) (h : AttemptLaw s) : AttemptLaw t := by
  cases exec_conduct run with
  | cold p q r _ ends => exact ends ▸ attemptLaw_cold p q r _ _
  | configured k => exact k.attemptLaw h
  | conduct k => exact k.keeps World.attemptLaw Move.attemptLaw h

theorem exec_newestInSet (run : exec c s = .next t) (h : NewestInSet s) : NewestInSet t := by
  cases exec_conduct run with
  | cold p q r _ ends => exact ends ▸ fun k newest => nomatch newest
  | configured k => exact h.congr (marks_of_bringUp k.same)
  | conduct k => exact k.keeps World.newest Move.newest h

/-- What every command and the idle millisecond keep, and what does not read the queue of commands, a step keeps. -/
theorem step_keeps {P : State → Prop} (queue : ∀ {s} (rest : List Instr), P s → P (s.setPending rest))
    (idle : ∀ {s}, P s → P (tick s)) (run : ∀ {c s t}, exec c s = .next t → P s → P t)
    (h : step s = .next t) (p : P s) : P t := by
  unfold step at h
  split at h
  · exact Host.Outcome.next.inj h ▸ idle p
  · exact run h (queue _ p)

end Sys2Proof.Machine

open Sys2Proof.Machine in
/-- Settles O8: no turn of the sequencer breaks the law of the attempts (`Move.attemptLaw`), the loader's verdict finds
nothing begun, and a milestone's kind is in the set it joins (`NewestInSet.milestone`). -/
theorem attemptLawKept : Obligations.AttemptLawKept :=
  ⟨fun _ _ law run => step_keeps (P := AttemptLaw)
      (fun _ h => ⟨h.retry, h.used, h.limit, h.waiting, h.causes, h.failing, h.untouched, h.loading⟩)
      (fun h => ⟨h.retry, h.used, h.limit, h.waiting, h.causes, h.failing, h.untouched, h.loading⟩)
      exec_attemptLaw run law,
    fun _ _ newest run => step_keeps (P := NewestInSet) (fun _ h => h) (fun h => h) exec_newestInSet run newest⟩
end

