-- ==== Sys2Proof/Proofs/WakeAndProgress.lean ====
section
/-! PROOFS. The costs held at the start of a wake pulse (O45), and the progress accepted within one attempt (O46). -/

namespace Sys2Proof.Machine

variable {s t a : State} {c : Instr}

/-! ### The wake pulse (R138) -/

/-- R138: a station that waits for POWER_GOOD in the command that started the pulse, the blocks having begun to move in
`a`. -/
structure Woken (a s : State) : Prop where
  sync : a.InSync
  surge : s.shownHold .surge = s.cfg.cost.surge
  load : s.shownHold .load = s.cfg.cost.load
  waking : s.seq.waking = (.running 200, .running 3000, true)
  progress : s.seq.progress = 0

theorem Move.shownHold (m : Move s t) (p : Pool) : t.shownHold p = s.shownHold p := by
  unfold State.shownHold State.ownEntry
  rw [m.replica, m.cfg]

theorem Move.woken (m : Move s t) (sync : s.InSync → a.InSync) (h : s.seq.state = .awaitGood → Woken a s)
    (awaits : t.seq.state = .awaitGood) : Woken a t := by
  have held (p : Pool) : s.shownHold p = s.cfg.cost.get p → t.shownHold p = t.cfg.cost.get p := by
    rw [m.shownHold, m.cfg]
    exact id
  have entered {x : Course} (course : t.seq.course = x) : x.state = .awaitGood :=
    (congrArg Course.state course).symm.trans awaits
  cases m.turn with
  | stays course waking =>
    have waits := entered course
    obtain ⟨synced, surge, load, woken, progress⟩ := h waits
    exact ⟨synced, held .surge surge, held .load load, (waking waits).trans woken,
      (congrArg Course.progress course).trans progress⟩
  | enters st leads _ course =>
    obtain ⟨-, ⟨-, other⟩, -⟩ := SeqState.leadsTo_cases leads
    exact absurd (entered course) other
  | fails _ course => exact nomatch entered course
  | wakes ready course waking =>
    obtain ⟨synced, -, surge, load⟩ := wakeReady_spec ready
    exact ⟨sync synced, held .surge surge, held .load load, waking, congrArg Course.progress course⟩
  | takesUp _ _ st taken course =>
    obtain ⟨-, -, other⟩ := SeqState.takenUp_cases taken
    exact absurd (entered course) other
  | reports _ _ reporting course =>
    obtain booting | imaging := reporting
    · exact nomatch booting.symm.trans (entered course)
    · exact nomatch imaging.symm.trans (entered course)

/-- Of the moves of the blocks only a ready wake enters AWAIT_GOOD. -/
theorem Moves.woken (h : Moves a t) (other : a.seq.state ≠ .awaitGood) : t.seq.state = .awaitGood → Woken a t := by
  induction h with
  | refl => exact fun awaits => absurd awaits other
  | tail moves m ih => exact m.woken (Moves.sync moves) ih

/-- Nor does the world, nor a replay out of step. -/
theorem Prelude.not_awaitGood (h : Prelude s a) (other : s.seq.state ≠ .awaitGood) : a.seq.state ≠ .awaitGood := by
  induction h with
  | refl => exact other
  | world _ w ih => exact (congrArg Course.state w.course).trans_ne ih
  | move _ out m ih => exact fun awaits => out (m.woken id (fun waits => absurd waits ih) awaits).sync

/-! ### The accepted progress (R142) -/

/-- R142: no attempt has begun and the accepted progress is not lower. -/
structure Advanced (s t : State) : Prop where
  night : t.seq.night = s.seq.night
  attempt : t.seq.attempt = s.seq.attempt
  progress : s.seq.progress ≤ t.seq.progress
  standby : t.seq.state = .standby → s.seq.state = .standby

theorem Advanced.refl (s : State) : Advanced s s := ⟨rfl, rfl, le_rfl, id⟩

theorem Advanced.trans {u : State} (h : Advanced s t) (k : Advanced t u) : Advanced s u :=
  ⟨k.night.trans h.night, k.attempt.trans h.attempt, h.progress.trans k.progress, fun u => h.standby (k.standby u)⟩

theorem Advanced.of_course (course : t.seq.course = s.seq.course) : Advanced s t :=
  ⟨(congrArg Course.night course :), (congrArg Course.attempt course :), (congrArg Course.progress course :).ge,
    (congrArg Course.state course :).symm.trans⟩

/-- Every turn advances, starts an attempt, or takes up a night. -/
theorem Turn.advanced (turn : Turn s t) :
    Advanced s t
      ∨ (t.seq.state ≠ .standby ∧ t.seq.night = s.seq.night ∧ t.seq.attempt = s.seq.attempt + 1 ∧ s.wakeReady = true)
      ∨ (t.seq.state ≠ .standby ∧ t.seq.night = s.replica.night.id ∧ s.InSync
        ∧ (s.seq.state = .standby ∨ newer s.replica.night.id s.seq.night = true)) := by
  have shows {x : Course} (course : t.seq.course = x) :
      t.seq.state = x.state ∧ t.seq.night = x.night ∧ t.seq.attempt = x.attempt ∧ t.seq.progress = x.progress := by
    subst course
    exact ⟨rfl, rfl, rfl, rfl⟩
  cases turn with
  | stays course => exact .inl (.of_course course)
  | enters st leads _ course =>
    obtain ⟨state, night, attempt, progress⟩ := shows course
    obtain ⟨-, ⟨standby, -⟩, -⟩ := SeqState.leadsTo_cases leads
    exact .inl ⟨night, attempt, progress.ge, fun is => absurd (state.symm.trans is) standby⟩
  | fails _ course =>
    obtain ⟨state, night, attempt, progress⟩ := shows course
    exact .inl ⟨night, attempt, progress.ge, fun is => nomatch state.symm.trans is⟩
  | wakes ready course =>
    obtain ⟨state, night, attempt, -⟩ := shows course
    exact .inr (.inl ⟨(fun is => nomatch state.symm.trans is), night, attempt, ready⟩)
  | takesUp sync older st entered course =>
    obtain ⟨state, night, -, -⟩ := shows course
    obtain ⟨-, standby, -⟩ := SeqState.takenUp_cases entered
    exact .inr (.inr ⟨fun is => standby (state.symm.trans is), night, sync, older⟩)
  | reports _ rises _ course =>
    obtain ⟨state, night, attempt, progress⟩ := shows course
    exact .inl ⟨night, attempt, rises.trans progress.ge, state.symm.trans⟩

/-- Out of step no attempt is started and no night taken up. -/
theorem Prelude.advanced (h : Prelude s a) : Advanced s a := by
  induction h with
  | refl => exact .refl s
  | world _ w ih => exact ih.trans (.of_course w.course)
  | move _ out m ih =>
    obtain advanced | ⟨-, -, -, ready⟩ | ⟨-, -, sync, -⟩ := m.turn.advanced
    · exact ih.trans advanced
    · exact absurd (wakeReady_spec ready).1 out
    · exact absurd sync out

/-- R133: a night newer than another is another. -/
theorem newer_ne {id current : Word16} (h : newer id current = true) : id ≠ current := by
  rintro rfl
  obtain ⟨nonzero, zero | ⟨later, -⟩⟩ := newer_iff.mp h
  · exact nonzero zero
  · simp at later

/-- R131, R142: the course of a night that has begun in `s`: its progress is not lower, or a later attempt of the night
is under way, or the night of the replica has been taken up after it. -/
def Onward (s t : State) : Prop :=
  t.seq.state ≠ .standby ∧
    ((t.seq.night = s.seq.night ∧ t.seq.attempt = s.seq.attempt ∧ s.seq.progress ≤ t.seq.progress)
      ∨ (t.seq.night = s.seq.night ∧ s.seq.attempt < t.seq.attempt)
      ∨ (t.seq.night ≠ s.seq.night ∧ t.seq.night = t.replica.night.id))

theorem Onward.progress (h : Onward s t) (night : t.seq.night = s.seq.night) (attempt : t.seq.attempt = s.seq.attempt) :
    s.seq.progress ≤ t.seq.progress := by
  obtain ⟨-, ⟨-, -, progress⟩ | ⟨-, later⟩ | ⟨other, -⟩⟩ := h
  · exact progress
  · exact absurd attempt later.ne'
  · exact absurd night other

theorem Move.onward (m : Move a t) (h : Onward s a) : Onward s t := by
  obtain ⟨begun, h⟩ := h
  obtain ⟨night, attempt, progress, standby⟩ | ⟨standby, night, attempt, -⟩ | ⟨standby, night, -, older⟩ :=
    m.turn.advanced
  · refine ⟨fun is => begun (standby is), ?_⟩
    rw [night, attempt, m.replica]
    exact h.imp_left fun ⟨same, first, rises⟩ => ⟨same, first, rises.trans progress⟩
  · refine ⟨standby, ?_⟩
    rw [night, attempt, m.replica]
    obtain ⟨same, first, -⟩ | ⟨same, later⟩ | other := h
    · exact .inr (.inl ⟨same, first ▸ Nat.lt_succ_self _⟩)
    · exact .inr (.inl ⟨same, Nat.lt_succ_of_lt later⟩)
    · exact .inr (.inr other)
  · have differs := newer_ne (older.resolve_left begun)
    refine ⟨standby, .inr (.inr ?_)⟩
    rw [night, m.replica]
    obtain ⟨same, -⟩ | ⟨same, -⟩ | ⟨-, same⟩ := h
    · exact ⟨same ▸ differs, rfl⟩
    · exact ⟨same ▸ differs, rfl⟩
    · exact absurd same.symm differs

theorem Moves.onward (h : Moves a t) (k : Onward s a) : Onward s t := h.keeps Move.onward k

theorem Conduct.progress (h : Conduct s t) (begun : s.seq.state ≠ .standby) (night : t.seq.night = s.seq.night)
    (attempt : t.seq.attempt = s.seq.attempt) : s.seq.progress ≤ t.seq.progress := by
  obtain ⟨a, prelude, moves, -⟩ := h
  obtain ⟨same, first, rises, standby⟩ := prelude.advanced
  exact (moves.onward ⟨fun is => begun (standby is), .inl ⟨same, first, rises⟩⟩).progress night attempt

end Sys2Proof.Machine

open Sys2Proof.Machine in
/-- Settles O45: of the moves of the blocks only a ready wake enters AWAIT_GOOD (`Move.woken`), and the blocks find the
station IN_SYNC only in a command that begins or ends there (`Conduct`). -/
theorem wakeOnlyWithBothCostsHeld : Obligations.WakeOnlyWithBothCostsHeld := by
  intro c s t run other awaits
  cases exec_conduct run with
  | cold p q r _ ends =>
    rw [ends] at awaits
    cases p <;> exact nomatch awaits
  | configured k => exact absurd ((congrArg Sequencer.state (seq_of_bringUp k.same)).symm.trans awaits) other
  | conduct k =>
    obtain ⟨a, prelude, moves, sync⟩ := k
    obtain ⟨synced, surge, load, waking, progress⟩ := moves.woken (prelude.not_awaitGood other) awaits
    exact ⟨sync synced, surge, load, congrArg (·.1) waking, congrArg (·.2.1) waking, progress, congrArg (·.2.2) waking⟩

open Sys2Proof.Machine in
/-- Settles O46: a night in STANDBY has no progress; after STANDBY every turn advances, starts the next attempt, or
takes up another night (`Turn.advanced`), and no command goes back to the night it began in. -/
theorem progressNeverDecreases : Obligations.ProgressNeverDecreases := by
  intro c s t law run warm night attempt
  by_cases begun : s.seq.state = .standby
  · rw [(law.untouched begun).2]
    exact Nat.zero_le _
  · cases exec_conduct run with
    | cold p q r cold => exact absurd cold (warm p q r)
    | configured k => exact (congrArg Sequencer.progress (seq_of_bringUp k.same)).ge
    | conduct k => exact k.progress begun night attempt
end

