-- ==== Sys2Proof/Proofs/RequestsGivenUp.lean ====
section
/-! PROOFS. What the sequencer's operations do in the Claim Engine and in the release slot: the active and the deferred
request, the own-holds record, and the RELEASE (R95, R98, R104, R111). -/

namespace Sys2Proof.Machine

variable {s t : State}

/-! ### The requests and the own-holds record -/

/-- The active request, the deferred request and the own-holds record. -/
def State.hand (s : State) : Option Request × Option (Pool × Nat) × PerPool Nat :=
  (s.claim.request, s.claim.deferred, s.claim.ownHolds)

theorem request_of_hand (h : t.hand = s.hand) : t.claim.request = s.claim.request := congrArg (·.1) h

theorem ownHolds_of_hand (h : t.hand = s.hand) : t.claim.ownHolds = s.claim.ownHolds := congrArg (·.2.2) h

@[simp] theorem ite_hand (c : Prop) [Decidable c] (s t : State) :
    (if c then s else t).hand = if c then s.hand else t.hand := apply_ite State.hand c s t

@[simp] theorem setRli_hand (s : State) (x : Rli) : (s.setRli x).hand = s.hand := rfl

@[simp] theorem setSlot_hand (s : State) (src : Source) (x : Slot) : (s.setSlot src x).hand = s.hand := rfl

@[simp] theorem setSeq_hand (s : State) (x : Sequencer) : (s.setSeq x).hand = s.hand := rfl

@[simp] theorem setGate_hand (s : State) (x : GateMark) : (s.setGate x).hand = s.hand := rfl

@[simp] theorem setPins_hand (s : State) (x : Pins) : (s.setPins x).hand = s.hand := rfl

@[simp] theorem raise_hand (e : Event) (s : State) : (raise e s).hand = s.hand := rfl

@[simp] theorem withdraw_hand (src : Source) (s : State) : (withdraw src s).hand = s.hand := by
  unfold withdraw
  split <;> rfl

@[simp] theorem putMark_hand (h : HeldMark) (s : State) : (putMark h s).hand = s.hand := by
  unfold putMark
  split <;> rfl

@[simp] theorem stateMark_hand (s : State) : (stateMark s).hand = s.hand := by simp [stateMark, keepMark]

@[simp] theorem milestone_hand (k : MarkKind) (s : State) : (milestone k s).hand = s.hand := by simp [milestone]

@[simp] theorem enterState_hand (st : SeqState) (s : State) : (enterState st s).hand = s.hand := stateMark_hand _

@[simp] theorem enterWith_hand (k : MarkKind) (st : SeqState) (s : State) : (enterWith k st s).hand = s.hand :=
  milestone_hand _ _

@[simp] theorem setOutcome_hand (o : NightOutcome) (skip : Option SkipReason) (s : State) :
    (setOutcome o skip s).hand = s.hand := by simp [setOutcome]

@[simp] theorem placeRelease_hand (u : PerPool Nat) (s : State) : (placeRelease u s).hand = s.hand := by
  unfold placeRelease
  split
  · rfl
  · split <;> rfl

/-- R104: a release that is asked for is placed, or joins the owed set. -/
@[simp] theorem releaseAsk_hand (x : PerPool Bool) (s : State) : (releaseAsk x s).hand = s.hand := by
  unfold releaseAsk
  split
  · exact placeRelease_hand _ _
  · rfl

@[simp] theorem dropRequestFrame_hand (s : State) : (dropRequestFrame s).hand = s.hand := by
  unfold dropRequestFrame
  split
  · split
    · exact withdraw_hand .claim s
    · rfl
    · rfl
  · rfl

@[simp] theorem tryUnpark_hand (s : State) : (tryUnpark s).hand = s.hand := by
  unfold tryUnpark
  split
  · rfl
  · dsimp only
    split <;> rfl

/-- R98: the active request is IDLE after a cancellation. -/
@[simp] theorem cancelRequest_hand (s : State) :
    (cancelRequest s).hand = (none, s.claim.deferred, s.claim.ownHolds) := by
  unfold cancelRequest
  split
  case h_1 none => rw [State.hand, none]
  case h_2 =>
    have dropped := dropRequestFrame_hand s
    have given : ((dropRequestFrame s).setClaim { (dropRequestFrame s).claim with request := none }).hand
        = (none, s.claim.deferred, s.claim.ownHolds) := congrArg (Prod.mk none) (congrArg Prod.snd dropped)
    split
    · rfl
    · rw [tryUnpark_hand]
      split
      · exact given
      · exact given

/-- R98, R111: after the sequencer's cancellation neither a request nor a deferred one is left. -/
@[simp] theorem cancelAll_hand (s : State) : (cancelAll s).hand = (none, none, s.claim.ownHolds) :=
  cancelRequest_hand _

theorem restoring_of_request (h : t.claim.request = s.claim.request) : t.restoring = s.restoring := by
  unfold State.restoring
  rw [h]

/-! ### A request that is made (R95) -/

/-- R95: what a request asks for. -/
def Request.asks (r : Request) : Pool × Nat × Bool := (r.pool, r.units, r.restore)

theorem setRequestState_asks (st : RequestState) (s : State) :
    (setRequestState st s).claim.request.map Request.asks = s.claim.request.map Request.asks := by
  unfold setRequestState
  rw [setClaim_claim, Option.map_map]
  rfl

theorem recordHold_request (p : Pool) (units : Nat) (s : State) :
    (recordHold p units s).claim.request = s.claim.request := by
  unfold recordHold keepSync
  split_ifs <;> rfl

theorem grantRequest_asks (p : Pool) (units : Nat) (s : State) :
    (grantRequest p units s).claim.request.map Request.asks = s.claim.request.map Request.asks := by
  unfold grantRequest setGranted
  rw [setClaim_claim, Option.map_map, recordHold_request]
  rfl

/-- A re-reading writes the state and the patience of the request alone. -/
theorem reread_asks (s : State) : (reread s).1.claim.request.map Request.asks = s.claim.request.map Request.asks := by
  unfold reread
  split
  case h_1 => rfl
  case h_2 r active =>
    split
    · rfl
    · split
      · exact grantRequest_asks _ _ s
      · exact setRequestState_asks _ s
      · unfold placeClaim
        split
        · exact setRequestState_asks _ (s.setSlot _ _)
        · exact setRequestState_asks _ s
        · exact setRequestState_asks _ s
      · unfold placePark
        split
        · exact setRequestState_asks _ (s.setSlot _ _)
        · exact setRequestState_asks _ s
        · exact setRequestState_asks _ s

/-- R95, R111: with no RESTORE request active, the request made is the active one. -/
theorem makeRequest_active (p : Pool) (units : Nat) (free : s.restoring = false) :
    ∃ r, (makeRequest p units s).1.claim.request = some r ∧ r.pool = p ∧ r.units = units ∧ r.restore = false := by
  rw [makeRequest, if_neg (by simp [free])]
  have asked := reread_asks ((cancelRequest s).setClaim { (cancelRequest s).claim with
    request := some ((cancelRequest s).freshRequest p units false) })
  obtain ⟨r, active, asks⟩ := Option.map_eq_some_iff.mp asked
  obtain ⟨pool, asks⟩ := Prod.mk.inj asks
  obtain ⟨units, restore⟩ := Prod.mk.inj asks
  exact ⟨r, active, pool, units, restore⟩

/-- Out of step a request is made, but the pool is not read. -/
theorem reread_out (out : s.member.state ≠ .inSync) : reread s = (s, false) := by
  unfold reread
  split
  · rfl
  · rw [if_pos (.inl out)]

/-- R95: out of step a request that is made holds nothing. -/
theorem makeRequest_out_ownHolds (p : Pool) (units : Nat) (out : s.member.state ≠ .inSync) :
    (makeRequest p units s).1.claim.ownHolds = s.claim.ownHolds := by
  unfold makeRequest
  split
  · rfl
  · rw [reread_out (by simpa using out)]
    exact congrArg (·.2.2) (cancelRequest_hand s)

/-! ### The release slot (R104) -/

theorem setSlot_release {src : Source} (h : Source.release ≠ src) (x : Slot) (s : State) :
    (s.setSlot src x).slot .release = s.slot .release := slot_setSlot_ne s x h

@[simp] theorem setClaim_release (x : ClaimEngine) (s : State) : (s.setClaim x).slot .release = s.slot .release := rfl

@[simp] theorem putMark_release (h : HeldMark) (s : State) : (putMark h s).slot .release = s.slot .release := by
  unfold putMark
  split
  · exact setSlot_release (by decide) _ s
  · exact setSlot_release (by decide) _ s
  · rfl

@[simp] theorem milestone_release (k : MarkKind) (s : State) : (milestone k s).slot .release = s.slot .release := by
  unfold milestone
  dsimp only
  split_ifs
  · rfl
  · exact putMark_release _ (s.setGate _)
  · rfl

@[simp] theorem keepSync_release (s : State) : (keepSync s).slot .release = s.slot .release := by
  unfold keepSync
  split_ifs <;> rfl

@[simp] theorem grantRequest_release (p : Pool) (units : Nat) (s : State) :
    (grantRequest p units s).slot .release = s.slot .release := by simp [grantRequest, setGranted, recordHold]

@[simp] theorem placeClaim_release (r : Request) (s : State) : (placeClaim r s).slot .release = s.slot .release := by
  unfold placeClaim
  split
  · exact setSlot_release (by decide) _ s
  · rfl
  · rfl

@[simp] theorem placePark_release (r : Request) (s : State) : (placePark r s).slot .release = s.slot .release := by
  unfold placePark
  split
  · exact setSlot_release (by decide) _ s
  · rfl
  · rfl

@[simp] theorem reread_release (s : State) : (reread s).1.slot .release = s.slot .release := by
  unfold reread
  split
  · rfl
  · split
    · rfl
    · split
      · exact grantRequest_release _ _ s
      · rfl
      · exact placeClaim_release _ s
      · exact placePark_release _ s

@[simp] theorem dropRequestFrame_release (s : State) : (dropRequestFrame s).slot .release = s.slot .release := by
  unfold dropRequestFrame
  split
  · split
    · exact withdraw_slot_ne (by decide)
    · rfl
    · rfl
  · rfl

@[simp] theorem tryUnpark_release (s : State) : (tryUnpark s).slot .release = s.slot .release := by
  unfold tryUnpark
  split
  · rfl
  · dsimp only
    split
    · exact setSlot_release (by decide) _ s
    · rfl

@[simp] theorem cancelRequest_release (s : State) : (cancelRequest s).slot .release = s.slot .release := by
  have dropped := dropRequestFrame_release s
  unfold cancelRequest
  split
  · rfl
  · split
    · rfl
    · rw [tryUnpark_release]
      split
      · exact dropped
      · exact dropped

@[simp] theorem makeRequest_release (p : Pool) (units : Nat) (s : State) :
    (makeRequest p units s).1.slot .release = s.slot .release := by
  unfold makeRequest
  split
  · rfl
  · rw [reread_release]
    exact cancelRequest_release s

/-- R104: IN_SYNC, with the slot EMPTY, the units held are placed in a RELEASE at once. -/
theorem releaseAsk_empty {x : PerPool Bool} (sync : s.InSync) (empty : s.slot .release = .empty)
    (held : (s.unitsOf x).isZero = false) :
    (releaseAsk x s).slot .release = fresh (releaseBody (s.unitsOf x)) := by
  rw [releaseAsk, if_pos sync, placeRelease, if_neg (by simp [held]), empty]
  exact slot_setSlot_self s .release _

/-- R104, R106: out of step the pools in which units are held join the owed set. -/
theorem releaseAsk_owes {x : PerPool Bool} {p : Pool} (out : s.member.state ≠ .inSync) (asked : x.get p = true)
    (held : s.claim.ownHolds.get p ≠ 0) : (releaseAsk x s).claim.owed.get p = true := by
  rw [releaseAsk, if_neg out, owePools, setClaim_claim]
  simp [namedPools, State.unitsOf, asked, held]

end Sys2Proof.Machine
end

