-- ==== Sys2Proof/Proofs/SequencerCommands.lean ====
section
/-! PROOFS. What the power lines, the presses and the sequencer's own timers do by state (7.2, R130, R137 to R152):
O47 to O52. -/

namespace Sys2Proof.Machine

variable {s t a : State}

/-! ### Marks, outcomes and the look for a newer night (R122, R136, R154) -/

/-- R121, R122: the Gate and Mark Unit once it has been handed a milestone. -/
def GateMark.handed (k : MarkKind) (g : GateMark) : GateMark :=
  if g.emittedNight = 0 then g else { g with emitted := g.emitted.add k, newest := some k }

theorem GateMark.handed_emitted {k : MarkKind} {g : GateMark} (night : g.emittedNight ≠ 0) :
    (g.handed k).emitted.has k = true ∧ (g.handed k).newest = some k := by
  rw [handed, if_neg night]
  exact ⟨(MarkSet.has_add ..).trans (by simp), rfl⟩

/-- R122: beside the MARK a milestone writes the Gate and Mark Unit alone. -/
theorem milestone_besideEngine (k : MarkKind) (s : State) :
    (milestone k s).besideEngine = (s.setGate (s.gate.handed k)).besideEngine := by
  unfold milestone GateMark.handed
  dsimp only
  split_ifs
  · rfl
  · exact putMark_besideEngine _ _
  · rfl

@[simp] theorem milestone_gate (k : MarkKind) (s : State) : (milestone k s).gate = s.gate.handed k :=
  (gate_of_besideEngine (milestone_besideEngine k s)).trans rfl

@[simp] theorem enterWith_gate (k : MarkKind) (st : SeqState) (s : State) :
    (enterWith k st s).gate = s.gate.handed k := milestone_gate k (toState st s)

@[simp] theorem releaseAsk_gate (x : PerPool Bool) (s : State) : (releaseAsk x s).gate = s.gate :=
  gate_of_besideEngine (releaseAsk_besideEngine x s)

@[simp] theorem cancelAll_gate (s : State) : (cancelAll s).gate = s.gate :=
  gate_of_besideEngine (cancelAll_besideEngine s)

/-- R154: beside the outcome and OUTCOME_READY nothing is written. -/
@[simp] theorem setOutcome_gate (o : NightOutcome) (skip : Option SkipReason) (s : State) :
    (setOutcome o skip s).gate = s.gate := by
  unfold setOutcome
  dsimp only
  split_ifs <;> rfl

@[simp] theorem setOutcome_claim (o : NightOutcome) (skip : Option SkipReason) (s : State) :
    (setOutcome o skip s).claim = s.claim := by
  unfold setOutcome
  dsimp only
  split_ifs <;> rfl

/-- R154: an outcome set from NONE raises OUTCOME_READY. -/
theorem setOutcome_ready {o : NightOutcome} (skip : Option SkipReason) (unset : s.seq.outcome.outcome = .unset)
    (set : o ≠ .unset) : (setOutcome o skip s).isPending .outcomeReady = true := by
  unfold setOutcome
  rw [if_pos ⟨unset, set⟩]
  exact raise_pending_self _ _

theorem FinishOutcome.outcome_ne_unset (f : FinishOutcome) : f.outcome ≠ .unset := by cases f <;> exact nofun

/-- R136: the look for a newer night reads the replica, the membership state and the night taken up. -/
theorem State.NoNewerNight.congr (h : s.NoNewerNight) (k : Kept s t) (member : t.member.state = s.member.state)
    (night : t.seq.night = s.seq.night) : t.NoNewerNight := by
  unfold NoNewerNight
  rwa [k.replica, member, night]

/-- R136: with no newer night a terminal state stays. -/
theorem lookNewer_none (h : s.NoNewerNight) : lookNewer s = s := by
  refine if_neg fun ⟨sync, newer⟩ => ?_
  obtain out | none_newer := h
  · exact out sync
  · exact nomatch none_newer.symm.trans newer

/-! ### A station that goes to LOCAL (R137, R151, R152) -/

theorem localEntry_eq (none_newer : s.NoNewerNight) : localEntry s =
    setOutcome .localUse none (enterWith .localUse .localUse (releaseAsk everyPool (cancelAll s))) := by
  refine lookNewer_none (none_newer.congr ?_ ?_ ?_)
  · exact .setOutcome _ _ (.enterWith _ _ (.releaseAsk _ (.cancelAll (.refl s))))
  · simp
  · simp

/-- R137, R151: the sequencer after an entry to LOCAL. -/
theorem localEntry_seq (none_newer : s.NoNewerNight) : (localEntry s).seq = { s.seq with
    state := .localUse
    outcome := { s.seq.outcome with outcome := .localUse, skip := none, finalProgress := s.seq.progress } } := by
  simp [localEntry_eq none_newer]

theorem localEntry_wentLocal (none_newer : s.NoNewerNight) : WentLocal s (localEntry s) := by
  have seq := localEntry_seq none_newer
  have hand : (localEntry s).hand = (none, none, s.claim.ownHolds) := by simp [localEntry_eq none_newer]
  refine ⟨?_, ?_, ?_, ?_, ⟨congrArg (·.1) hand, congrArg (·.2.1) hand⟩, congrArg (·.2.2) hand, fun unset => ?_,
    fun night => ?_, (Kept.localEntry (.refl s)).replica⟩
  · rw [seq]
  · rw [seq]
  · rw [seq]
  · rw [seq]
  · rw [localEntry_eq none_newer]
    exact setOutcome_ready none (by simpa using unset) nofun
  · simpa [localEntry_eq none_newer] using (GateMark.handed_emitted night).1

/-- What is said of an entry to LOCAL is read from the outcome, the progress, the own-holds record, the emitted marks'
night and the replica. -/
theorem WentLocal.of (h : WentLocal a t) (outcome : a.seq.outcome = s.seq.outcome := by rfl)
    (progress : a.seq.progress = s.seq.progress := by rfl) (claim : a.claim = s.claim := by rfl)
    (gate : a.gate = s.gate := by rfl) (replica : a.replica = s.replica := by rfl) : WentLocal s t where
  state := h.state
  outcome := h.outcome
  progress := h.progress.trans progress
  causes := h.causes.trans (by rw [outcome])
  request := h.request
  record := h.record.trans (by rw [claim])
  event unset := h.event (by rwa [outcome])
  mark night := h.mark (by rwa [gate])
  replica := h.replica.trans replica

/-! ### The power lines (R129, R130, R137, R139) -/

theorem exec_powerGoodRise (off : s.pins.powerGood = false) :
    exec .powerGoodRise s = .next (powerGoodRises (s.setPins { s.pins with powerGood := true })) := by
  change execPowerGoodRise s = _
  rw [execPowerGoodRise, if_neg (by simp [off])]

theorem exec_powerGoodFall (on : s.pins.powerGood = true) :
    exec .powerGoodFall s = .next (powerGoodFalls (s.setPins { s.pins with powerGood := false })) := by
  change execPowerGoodFall s = _
  rw [execPowerGoodFall, if_pos on]

theorem powerGoodRises_waiting (waits : s.seq.state = .gated ∨ s.seq.state = .claiming) :
    powerGoodRises s = localEntry s := by
  unfold powerGoodRises
  obtain gated | claiming := waits
  · rw [gated]
  · rw [claiming]

theorem powerGoodRises_other (awaits : s.seq.state ≠ .awaitGood) (gated : s.seq.state ≠ .gated)
    (claiming : s.seq.state ≠ .claiming) : powerGoodRises s = s := by
  unfold powerGoodRises
  split
  · contradiction
  · contradiction
  · contradiction
  all_goals rfl

theorem powerGoodRises_awaits (awaits : s.seq.state = .awaitGood) : powerGoodRises s =
    s.setSeq { s.seq with state := .settle, good := .stopped, settle := .running 5000 } := by
  unfold powerGoodRises
  rw [awaits]
  rfl

/-- Settles O47: the branches of `powerGoodRises` by state; the other two events write the sequencer and the pins
alone. -/
theorem powerLineEventsByState : Obligations.PowerLineEventsByState := by
  refine fun s => ⟨fun off => ⟨fun awaits => ?_, fun waits none_newer => ?_, fun awaits gated claiming => ?_⟩,
    ⟨rfl, rfl⟩, fun warm => congrArg _ (if_neg warm), fun cool => congrArg _ (if_pos cool)⟩
  · exact (exec_powerGoodRise off).trans
      (congrArg _ (powerGoodRises_awaits (s := s.setPins { s.pins with powerGood := true }) awaits))
  · have risen : (s.setPins { s.pins with powerGood := true }).NoNewerNight := none_newer
    exact ⟨_, (exec_powerGoodRise off).trans (congrArg _ (powerGoodRises_waiting waits)),
      (localEntry_wentLocal risen).of, congrArg Pins.powerGood (Kept.localEntry (.refl (s.setPins _))).pins⟩
  · exact (exec_powerGoodRise off).trans (congrArg _
      (powerGoodRises_other (s := s.setPins { s.pins with powerGood := true }) awaits gated claiming))

/-! ### Attempts that fail (R139, R141, R144, R146) -/

theorem failAttempt_attemptFailed (c : Cause) (s : State) : AttemptFailed c s (failAttempt c s) := by
  have seq : (failAttempt c s).seq = s.seq.failed c := seq_of_besideEngine (failAttempt_besideEngine c s)
  have hand : (failAttempt c s).hand = (none, none, s.claim.ownHolds) := by simp [failAttempt]
  refine ⟨?_, ?_, ?_, ?_, ?_, ?_, congrArg (·.1) hand, ?_, congrArg (·.2.2) hand,
    (Kept.failAttempt c (.refl s)).replica⟩
  all_goals rw [seq, Sequencer.failed]
  · exact ⟨rfl, rfl, rfl, rfl⟩
  · exact ⟨rfl, rfl⟩

theorem AttemptFailed.of {c : Cause} (h : AttemptFailed c a t) (seq : a.seq = s.seq := by rfl)
    (claim : a.claim = s.claim := by rfl) (replica : a.replica = s.replica := by rfl) : AttemptFailed c s t where
  state := h.state
  causes := h.causes.trans (by rw [seq])
  permit := h.permit
  cooldown := h.cooldown
  timers := h.timers
  wake := h.wake.trans (by rw [seq])
  request := h.request
  attempt := seq ▸ h.attempt
  record := h.record.trans (by rw [claim])
  replica := h.replica.trans replica

theorem powerGoodFalls_fails (phase : s.seq.state = .settle ∨ s.seq.state = .booting ∨ s.seq.state = .imaging) :
    powerGoodFalls s = failAttempt .powerLost s := by
  unfold powerGoodFalls
  obtain settles | booting | imaging := phase
  · rw [settles]
  · rw [booting]
  · rw [imaging]

theorem powerGoodFalls_other (phase : s.seq.state = .standby ∨ s.seq.state = .gated ∨ s.seq.state = .claiming
    ∨ s.seq.state = .awaitGood ∨ s.seq.state = .cooldown ∨ s.seq.state.terminal = true) : powerGoodFalls s = s := by
  unfold powerGoodFalls
  split <;> simp_all [SeqState.terminal]

theorem exec_goodLimitExpiry (runs : s.seq.good.isRunning = true) (awaits : s.seq.state = .awaitGood) :
    exec .goodLimitExpiry s = .next (failAttempt .noPowerGood s) :=
  congrArg Host.Outcome.next (if_pos ⟨runs, awaits⟩)

theorem exec_contactTimerExpiry (runs : s.seq.contactTimer.isRunning = true) (none_made : s.seq.contact = false)
    (booted : s.seq.state = .booting ∨ s.seq.state = .imaging) :
    exec .contactTimerExpiry s = .next (failAttempt .noFirmware s) :=
  congrArg Host.Outcome.next (if_pos ⟨runs, none_made, booted⟩)

theorem exec_progressTimerExpiry (runs : s.seq.progressTimer.isRunning = true)
    (booted : s.seq.state = .booting ∨ s.seq.state = .imaging) :
    exec .progressTimerExpiry s = .next (failAttempt .noProgress s) :=
  congrArg Host.Outcome.next (if_pos ⟨runs, booted⟩)

/-- Settles O48: each of the four events is a `failAttempt` with its cause. -/
theorem attemptFailsWithItsCause : Obligations.AttemptFailsWithItsCause := by
  refine fun s => ⟨fun runs awaits => ?_, fun runs none_made booting => ?_, fun runs booted => ?_,
    fun on phase => ?_, fun on phase => ?_⟩
  · exact ⟨_, exec_goodLimitExpiry runs awaits, failAttempt_attemptFailed _ s⟩
  · exact ⟨_, exec_contactTimerExpiry runs none_made (.inl booting), failAttempt_attemptFailed _ s⟩
  · exact ⟨_, exec_progressTimerExpiry runs booted, failAttempt_attemptFailed _ s⟩
  · exact ⟨_, (exec_powerGoodFall on).trans (congrArg _ (powerGoodFalls_fails phase)),
      (failAttempt_attemptFailed _ (s.setPins _)).of,
      congrArg Pins.powerGood (Kept.failAttempt _ (.refl (s.setPins _))).pins⟩
  · exact (exec_powerGoodFall on).trans
      (congrArg _ (powerGoodFalls_other (s := s.setPins { s.pins with powerGood := false }) phase))

/-! ### FINISHING ends (R145) -/

/-- R138, R140, R149: a station that has reached a terminal state does nothing at a grant. -/
theorem toldGranted_done (p : Pool) (done : s.seq.state = .done) : toldGranted p s = s := by
  cases p with
  | load => exact if_neg (by rw [done]; exact nofun)
  | surge => exact if_neg fun ready => nomatch (wakeReady_spec ready).2.1.symm.trans done
  | feed => exact if_neg (by rw [done]; exact nofun)

theorem remakeDeferred_done (done : s.seq.state = .done) : (remakeDeferred s).besideEngine = s.besideEngine := by
  unfold remakeDeferred
  split
  · rfl
  · rename_i p units _
    have made := makeRequest_besideEngine p units (s.setClaim { s.claim with deferred := none })
    have still : (makeRequest p units (s.setClaim { s.claim with deferred := none })).1.seq.state = .done :=
      (congrArg Sequencer.state (seq_of_besideEngine made)).trans done
    dsimp only
    rw [toldGranted_done p still, ite_self, made]
    rfl

/-- R111: the "off" at DONE changes nothing in the sequencer. -/
theorem noteOff_done (done : s.seq.state = .done) : (noteOff s).besideEngine = s.besideEngine := by
  unfold noteOff
  split
  · have cancelled := cancelRequest_besideEngine s
    exact (remakeDeferred_done ((congrArg Sequencer.state (seq_of_besideEngine cancelled)).trans done)).trans cancelled
  · rfl

theorem noteOff_unrestoring (free : s.restoring = false) : noteOff s = s :=
  if_neg (by simp [free])

/-- R111, R95: out of step the "off" leaves the own-holds record alone. -/
theorem noteOff_out_ownHolds (done : s.seq.state = .done) (out : s.member.state ≠ .inSync) :
    (noteOff s).claim.ownHolds = s.claim.ownHolds := by
  have cancelled : (cancelRequest s).claim.ownHolds = s.claim.ownHolds := congrArg (·.2.2) (cancelRequest_hand s)
  unfold noteOff
  split
  · unfold remakeDeferred
    split
    · exact cancelled
    · rename_i p units _
      have still := makeRequest_besideEngine p units ((cancelRequest s).setClaim
        { (cancelRequest s).claim with deferred := none })
      have done := (congrArg Sequencer.state (seq_of_besideEngine
        (still.trans (cancelRequest_besideEngine s)))).trans done
      dsimp only
      rw [toldGranted_done p done, ite_self, makeRequest_out_ownHolds p units (by simpa using out)]
      exact cancelled
  · rfl

/-- R145: what leaves FINISHING before the outcome is set. -/
def finishLeft (s : State) : State :=
  releaseAsk ((onlyPool .load).set .feed true)
    (noteOff (enterState .done (s.setSeq { s.seq with shutdown := .stopped })))

theorem finishLeft_besideEngine (s : State) : (finishLeft s).besideEngine =
    (s.setSeq { s.seq with state := .done, shutdown := .stopped }).besideEngine :=
  (releaseAsk_besideEngine _ _).trans ((noteOff_done (by rw [enterState_seq])).trans (enterState_besideEngine _ _))

theorem finishDone_eq (none_newer : s.NoNewerNight) :
    finishDone s = setOutcome s.seq.finish.outcome none (finishLeft s) := by
  have left := finishLeft_besideEngine s
  have k : Kept s (finishLeft s) := .releaseAsk _ (.noteOff (.enterState _ (.setSeq (.refl s))))
  refine lookNewer_none (none_newer.congr (k.setOutcome _ _) ?_ ?_)
  · exact congrArg Member.state ((setOutcome_member ..).trans (congrArg State.member left :))
  · rw [setOutcome_seq]
    exact (congrArg Sequencer.night (seq_of_besideEngine left) :)

/-- R145: the sequencer after DONE. -/
theorem finishDone_seq (none_newer : s.NoNewerNight) : (finishDone s).seq = { s.seq with
    state := .done, shutdown := .stopped
    outcome := { s.seq.outcome with
      outcome := s.seq.finish.outcome, skip := none, finalProgress := s.seq.progress } } := by
  rw [finishDone_eq none_newer, setOutcome_seq, seq_of_besideEngine (finishLeft_besideEngine s)]
  rfl

theorem finishDone_ready (none_newer : s.NoNewerNight) (unset : s.seq.outcome.outcome = .unset) :
    (finishDone s).isPending .outcomeReady = true := by
  rw [finishDone_eq none_newer]
  refine setOutcome_ready none ?_ (FinishOutcome.outcome_ne_unset _)
  rw [seq_of_besideEngine (finishLeft_besideEngine s)]
  exact unset

theorem finishDone_ownHolds (none_newer : s.NoNewerNight) (free : s.restoring = false) :
    (finishDone s).claim.ownHolds = s.claim.ownHolds := by
  have entered := enterState_hand .done (s.setSeq { s.seq with shutdown := .stopped })
  have unrestoring := (restoring_of_request (request_of_hand entered)).trans free
  rw [finishDone_eq none_newer, setOutcome_claim, finishLeft, noteOff_unrestoring unrestoring]
  exact ownHolds_of_hand ((releaseAsk_hand _ _).trans entered)

theorem finishDone_owes (none_newer : s.NoNewerNight) (out : s.member.state ≠ .inSync)
    (held : s.claim.ownHolds.load ≠ 0) : (finishDone s).claim.owed.load = true := by
  have entered := enterState_hand .done (s.setSeq { s.seq with shutdown := .stopped })
  have done : (enterState .done (s.setSeq { s.seq with shutdown := .stopped })).seq.state = .done := by
    rw [enterState_seq]
  rw [finishDone_eq none_newer, setOutcome_claim]
  refine releaseAsk_owes (p := .load) (by simpa using out) rfl ?_
  rw [noteOff_out_ownHolds done (by simpa using out), ownHolds_of_hand entered]
  exact held

theorem powerGoodFalls_finishing (finishing : s.seq.state = .finishing) : powerGoodFalls s = finishDone s := by
  unfold powerGoodFalls
  rw [finishing]

theorem exec_shutdownTimerExpiry (runs : s.seq.shutdown.isRunning = true) (finishing : s.seq.state = .finishing) :
    exec .shutdownTimerExpiry s = .next (shutdownRunsOut s) :=
  congrArg Host.Outcome.next (if_pos ⟨runs, finishing⟩)

/-- Settles O50: both ends of FINISHING are a `finishDone`. -/
theorem finishingEndsInDone : Obligations.FinishingEndsInDone := by
  refine fun s finishing none_newer => ⟨fun runs => ?_, fun on => ?_⟩
  · have expired : (s.setSeq { s.seq with
        permit := false, outcome := { s.seq.outcome with noShutdown := true } }).NoNewerNight := none_newer
    have seq := finishDone_seq expired
    refine ⟨_, exec_shutdownTimerExpiry runs finishing, ?_, ?_, ?_, ?_, ?_, ?_,
      fun out held => finishDone_owes expired out held, fun free => finishDone_ownHolds expired free,
      (Kept.finishDone (.setSeq (.refl s))).replica⟩
    all_goals rw [shutdownRunsOut, seq]
    all_goals rfl
  · have fallen : (s.setPins { s.pins with powerGood := false }).NoNewerNight := none_newer
    have seq := finishDone_seq fallen
    have k : Kept _ (finishDone (s.setPins { s.pins with powerGood := false })) := .finishDone (.refl _)
    refine ⟨_, (exec_powerGoodFall on).trans (congrArg _ (powerGoodFalls_finishing finishing)), ?_, ?_, ?_, ?_, ?_,
      fun unset => finishDone_ready fallen unset, ?_, congrArg Pins.powerGood k.pins, k.replica⟩
    all_goals rw [seq]
    all_goals rfl

/-! ### COOLDOWN ends (R130, R147) -/

/-- R147, R154: COOLDOWN ends in a terminal state. -/
theorem lookNewer_ended {k : MarkKind} {st : SeqState} {o : NightOutcome} (none_newer : s.NoNewerNight) :
    lookNewer (setOutcome o none (enterWith k st s)) = setOutcome o none (enterWith k st s) := by
  refine lookNewer_none (none_newer.congr (.setOutcome _ _ (.enterWith _ _ (.refl s))) ?_ ?_)
  · simp
  · simp

theorem cooldownEnds_failed (past : s.cfg.retryLimit < s.seq.outcome.used) (none_newer : s.NoNewerNight) :
    cooldownEnds s = setOutcome .failed none (enterWith .failed .failed s) :=
  (if_pos past).trans (lookNewer_ended none_newer)

theorem cooldownEnds_claims (left : s.seq.outcome.used ≤ s.cfg.retryLimit) (running : s.seq.standing = .running) :
    cooldownEnds s = enterClaiming s := by
  rw [cooldownEnds, if_neg (Nat.not_lt.mpr left), running]

theorem cooldownEnds_waits (left : s.seq.outcome.used ≤ s.cfg.retryLimit) (held : s.seq.standing = .held) :
    cooldownEnds s = enterGated s := by
  rw [cooldownEnds, if_neg (Nat.not_lt.mpr left), held]

theorem cooldownEnds_skips (left : s.seq.outcome.used ≤ s.cfg.retryLimit) (none_newer : s.NoNewerNight)
    (ended : s.seq.standing = .closing ∨ s.seq.standing = .ended ∨ s.seq.standing = .aborted) :
    cooldownEnds s = setOutcome (if s.seq.standing = .aborted then .aborted else .closedOut) none
      (enterWith .skipped .skipped s) := by
  rw [cooldownEnds, if_neg (Nat.not_lt.mpr left)]
  obtain closing | past | aborted := ended
  · rw [closing]
    exact lookNewer_ended none_newer
  · rw [past]
    exact lookNewer_ended none_newer
  · rw [aborted]
    exact lookNewer_ended none_newer

/-- R116, R119, R137: with the night not RUNNING the gate stays closed, and with it held the sequencer stays GATED. -/
theorem enterGated_held (night : s.replica.night.state ≠ .running) (held : s.seq.standing = .held) :
    enterGated s = enterState .gated (gatedReady s) := by
  have k : Kept s (enterState .gated (gatedReady s)) := .enterState _ (.gatedReady (.refl s))
  have closed : evaluateGate (enterState .gated (gatedReady s)) = enterState .gated (gatedReady s) := by
    refine if_neg fun opens => night ?_
    obtain ⟨-, -, -, running, -⟩ := gateOpens_iff.mp opens
    rwa [k.replica] at running
  rw [enterGated_eq, closed]
  refine if_neg fun ⟨_, _, _, running⟩ => ?_
  rw [enterState_seq, gatedReady_seq] at running
  exact nomatch held.symm.trans running

theorem exec_cooldownExpiry (supplyReq : Bool) (runs : s.seq.cooldown.isRunning = true)
    (cool : s.seq.state = .cooldown) : exec (.cooldownExpiry supplyReq) s = .next (cooldownOver supplyReq s) :=
  congrArg Host.Outcome.next (if_pos ⟨runs, cool⟩)

/-- R130, R147: SUPPLY_REQ as the end of the COOLDOWN samples it. -/
def cooldownSampled (supplyReq : Bool) (s : State) : State :=
  (s.setPins { s.pins with supplyReq := supplyReq }).setSeq { s.seq with
    cooldown := .stopped, permit := s.seq.permit || !supplyReq }

/-- Settles O51: the branches of `cooldownEnds`. -/
theorem cooldownExpiryDecides : Obligations.CooldownExpiryDecides := by
  intro s supplyReq runs cool none_newer
  have ends := exec_cooldownExpiry supplyReq runs cool
  have same : (cooldownOver supplyReq s).replica = s.replica :=
    (Kept.cooldownEnds (.refl (cooldownSampled supplyReq s))).replica
  have sampled : (cooldownSampled supplyReq s).NoNewerNight := none_newer
  refine ⟨fun past => ?_, fun left => ⟨fun running none_held => ?_, fun held night => ?_, fun ended => ?_⟩⟩
  · have failed := cooldownEnds_failed (s := cooldownSampled supplyReq s) past sampled
    have seq := (congrArg State.seq failed).trans (setOutcome_seq ..)
    have gate := (congrArg State.gate failed).trans (setOutcome_gate ..)
    refine ⟨_, ends, ?_, ?_, ?_, fun marked => ?_, same⟩
    · exact (congrArg Sequencer.state seq).trans (by rw [enterWith_seq])
    · exact congrArg (·.outcome.outcome) seq
    · exact (congrArg Sequencer.permit seq).trans (by rw [enterWith_seq]; rfl)
    · refine (congrArg (·.emitted.has .failed) gate).trans ?_
      rw [enterWith_gate]
      exact (GateMark.handed_emitted marked).1
  · have claims := cooldownEnds_claims (s := cooldownSampled supplyReq s) left running
    have entered := enterClaiming_besideEngine (s := cooldownSampled supplyReq s) none_held
    have seq := (congrArg State.seq claims).trans (seq_of_besideEngine entered)
    exact ⟨_, ends, congrArg Sequencer.state seq, (congrArg Sequencer.outcome seq :), congrArg Sequencer.permit seq,
      same⟩
  · have waits := (cooldownEnds_waits (s := cooldownSampled supplyReq s) left held).trans (enterGated_held night held)
    exact ⟨_, ends, (congrArg (·.seq.state) waits).trans (by simp), same⟩
  · have skips := cooldownEnds_skips (s := cooldownSampled supplyReq s) left sampled ended
    have seq := (congrArg State.seq skips).trans (setOutcome_seq ..)
    exact ⟨_, ends, (congrArg Sequencer.state seq).trans (by simp), congrArg (·.outcome.outcome) seq,
      congrArg (·.outcome.skip) seq, same⟩

/-! ### Presses (R151, R152) -/

theorem exec_pressBegin (off : s.pins.panelButton = false) :
    exec .pressBegin s = .next (pressBegins (s.setPins { s.pins with panelButton := true })) := by
  change execPressBegin s = _
  rw [execPressBegin, if_neg (by simp [off])]

theorem pressBegins_passes (idle : s.seq.state = .standby ∨ s.seq.state.terminal = true) :
    pressBegins s = passPress s := by
  unfold pressBegins
  split <;> simp_all [SeqState.terminal]

theorem pressBegins_waiting (waits : s.seq.state = .gated ∨ s.seq.state = .claiming) :
    pressBegins s = localEntry (passPress s) := by
  unfold pressBegins
  obtain gated | claiming := waits
  · rw [gated]
  · rw [claiming]

/-- R152: the states in which a press is held: an attempt is under way or ending. -/
theorem pressBegins_holds (busy : s.seq.state.canFail = true ∨ s.seq.state = .finishing ∨ s.seq.state = .cooldown) :
    pressBegins s = holdPress s := by
  unfold pressBegins
  split <;> simp_all [SeqState.canFail]

theorem pressHeldOut_long (busy : s.seq.state.canFail = true ∨ s.seq.state = .finishing ∨ s.seq.state = .cooldown) :
    pressHeldOut s = longPress ((passPress s).setSeq { (passPress s).seq with pressTimer := .stopped }) := by
  have state : ((passPress s).setSeq { (passPress s).seq with pressTimer := .stopped }).seq.state = s.seq.state := rfl
  unfold pressHeldOut
  dsimp only
  split <;> simp_all [SeqState.canFail]

theorem exec_pressEnd (on : s.pins.panelButton = true) :
    exec .pressEnd s = .next (pressEnds (s.setPins { s.pins with panelButton := false })) :=
  congrArg Host.Outcome.next (if_pos on)

theorem exec_pressTimerExpiry (runs : s.seq.pressTimer.isRunning = true) :
    exec .pressTimerExpiry s = .next (pressHeldOut s) := congrArg Host.Outcome.next (if_pos runs)

/-- R129: a press that passes through asserts DESK_BUTTON while it lasts. -/
theorem deskButton_passing (passing : s.seq.press = .passing) (pressed : s.pins.panelButton = true) :
    s.deskButton = true := by
  rw [State.deskButton, passing, pressed, Bool.or_eq_true]
  exact .inr rfl

/-- R152: a long press as it goes to LOCAL. -/
def longPressed (s : State) : State :=
  s.setSeq { s.seq with
    press := .passing, permit := true, pressTimer := .stopped
    good := .stopped, settle := .stopped, contactTimer := .stopped, progressTimer := .stopped
    shutdown := .stopped, cooldown := .stopped, go := false }

/-- Settles O52: the branches of `pressBegins` and `pressHeldOut` by state; both long ways are a `localEntry`. -/
theorem pressByState : Obligations.PressByState := by
  refine fun s => ⟨fun off idle => ?_, fun off waits none_newer => ?_, fun off busy => ?_, exec_pressEnd,
    fun runs on busy none_newer => ?_⟩
  · exact ⟨_, (exec_pressBegin off).trans
      (congrArg _ (pressBegins_passes (s := s.setPins { s.pins with panelButton := true }) idle)),
      deskButton_passing rfl rfl, rfl⟩
  · have pressed : (passPress (s.setPins { s.pins with panelButton := true })).NoNewerNight := none_newer
    have seq := localEntry_seq pressed
    refine ⟨_, (exec_pressBegin off).trans (congrArg _ (pressBegins_waiting waits)), (localEntry_wentLocal pressed).of,
      deskButton_passing ?_ ?_, ?_⟩
    · exact congrArg Sequencer.press seq
    · exact congrArg Pins.panelButton (Kept.localEntry (.refl _)).pins
    · exact congrArg Sequencer.permit seq
  · exact (exec_pressBegin off).trans
      (congrArg _ (pressBegins_holds (s := s.setPins { s.pins with panelButton := true }) busy))
  · have pressed : (longPressed s).NoNewerNight := none_newer
    have seq := localEntry_seq pressed
    refine ⟨localEntry (longPressed s), (exec_pressTimerExpiry runs).trans (congrArg _ (pressHeldOut_long busy)),
      (localEntry_wentLocal pressed).of, deskButton_passing ?_ ?_, ?_⟩
    · exact congrArg Sequencer.press seq
    · exact (congrArg Pins.panelButton (Kept.localEntry (.refl (longPressed s))).pins).trans on
    · rw [seq]
      exact ⟨rfl, rfl, rfl, rfl, rfl, rfl, rfl, rfl⟩

/-! ### The settle phase ends (R139, R140) -/

theorem exec_settleExpiry (runs : s.seq.settle.isRunning = true) (settles : s.seq.state = .settle) :
    exec .settleExpiry s = .next (settleEnds s) := congrArg Host.Outcome.next (if_pos ⟨runs, settles⟩)

/-- R139: SURGE is given back, and BOOTING entered with its milestone. -/
def surgeOver (s : State) : State :=
  enterWith .surgeEnd .booting (releaseAsk (onlyPool .surge) (s.setSeq { s.seq with settle := .stopped }))

theorem surgeOver_seq (s : State) : (surgeOver s).seq = { s.seq with settle := .stopped, state := .booting } := by
  simp [surgeOver]

theorem surgeOver_hand (s : State) : (surgeOver s).hand = s.hand := by simp [surgeOver]

theorem surgeOver_gate (s : State) : (surgeOver s).gate = s.gate.handed .surgeEnd := by simp [surgeOver]

theorem surgeOver_kept (s : State) : Kept s (surgeOver s) := .enterWith _ _ (.releaseAsk _ (.setSeq (.refl s)))

/-- R104, R139: SURGE alone is given back. -/
theorem surgeOver_release (sync : s.InSync) (empty : s.slot .release = .empty) (held : s.claim.ownHolds.surge ≠ 0) :
    (surgeOver s).slot .release = fresh (.release (byteOf s.claim.ownHolds.surge) 0 0) := by
  refine (milestone_release _ _).trans ?_
  refine releaseAsk_empty (s := s.setSeq { s.seq with settle := .stopped }) sync empty ?_
  exact Bool.eq_false_iff.mpr fun zero => held (PerPool.isZero_iff.mp zero .surge)

/-- R140: BOOTING begins. -/
def bootingBegun (s : State) : State :=
  s.setSeq { s.seq with
    go := false
    contactTimer := if s.seq.contact then s.seq.contactTimer else .running Config.contact }

theorem bootingActs_requests (standing : s.seq.standing = .running ∨ s.seq.standing = .held) :
    bootingActs s = requestFeed (bootingBegun s) := by
  unfold bootingActs
  dsimp only
  split
  case h_1 | h_2 => rfl
  all_goals
    rename_i other
    have other : s.seq.standing = _ := other
    simp [other] at standing

theorem bootingActs_finishes
    (ended : s.seq.standing = .closing ∨ s.seq.standing = .ended ∨ s.seq.standing = .aborted) :
    bootingActs s = enterFinishing (if s.seq.standing = .aborted then .aborted else .closedOut) (bootingBegun s) := by
  unfold bootingActs
  dsimp only
  split
  all_goals
    rename_i other
    have standing : s.seq.standing = _ := other
  · simp [standing] at ended
  · simp [standing] at ended
  all_goals exact congrArg (enterFinishing · (bootingBegun s)) (by simp [standing])

/-- R140: a grant of FEED writes the action, the progress timer and the link. -/
theorem feedGranted_eq (s : State) : ∃ go timer link,
    feedGranted s = (s.setSeq { s.seq with go := go, progressTimer := timer }).setLink link := by
  unfold feedGranted
  split
  · exact ⟨_, _, _, rfl⟩
  · exact ⟨s.seq.go, s.seq.progressTimer, s.link, rfl⟩

/-- R140: beside the request the FEED request writes what its grant writes. -/
theorem requestFeed_eq (s : State) : ∃ go timer link, requestFeed s =
    ((makeRequest .feed s.cfg.cost.feed s).1.setSeq { s.seq with go := go, progressTimer := timer }).setLink link := by
  have seq := seq_of_besideEngine (makeRequest_besideEngine .feed s.cfg.cost.feed s)
  unfold requestFeed
  dsimp only
  rw [← seq]
  split
  · exact feedGranted_eq _
  · exact ⟨_, _, _, rfl⟩

/-- R145: FINISHING entered with the desktop powered. -/
theorem enterFinishing_seq (f : FinishOutcome) (on : s.pins.powerGood = true) : (enterFinishing f s).seq = { s.seq with
    state := .finishing, finish := f, go := false, contactTimer := .stopped, progressTimer := .stopped
    shutdown := .running 180000 } := by
  have k : Kept s (releaseAsk (onlyPool .feed) ((enterState .finishing (setFinish f s)).setSeq
      { (enterState .finishing (setFinish f s)).seq with
        go := false, contactTimer := .stopped, progressTimer := .stopped, shutdown := .running Config.shutdown })) :=
    .releaseAsk _ (.setSeq (.enterState _ (.setSeq (.refl s))))
  rw [enterFinishing, finishingActs, if_pos (by rw [k.pins, on]), releaseAsk_seq, setSeq_seq, enterState_seq]
  rfl

/-- Settles O49: the phase ends in `surgeOver`, and BOOTING goes on by the standing. -/
theorem settleExpiryEntersBooting : Obligations.SettleExpiryEntersBooting := by
  intro s runs settles
  have ends := exec_settleExpiry runs settles
  have same : (settleEnds s).replica = s.replica := (Kept.settleEnds (.refl s)).replica
  have begun : (bootingBegun (surgeOver s)).seq = { s.seq with
      settle := .stopped, state := .booting, go := false
      contactTimer := if s.seq.contact then s.seq.contactTimer else .running 240000 } := by
    rw [bootingBegun, setSeq_seq, surgeOver_seq]
    rfl
  refine ⟨fun standing free => ?_, fun on ended => ?_⟩
  · have requests : settleEnds s = requestFeed (bootingBegun (surgeOver s)) :=
      bootingActs_requests (s := surgeOver s) (by rwa [surgeOver_seq])
    obtain ⟨go, timer, link, fed⟩ := requestFeed_eq (bootingBegun (surgeOver s))
    have unrestoring : (bootingBegun (surgeOver s)).restoring = false :=
      (restoring_of_request (request_of_hand (surgeOver_hand s))).trans free
    obtain ⟨r, active, pool, units, restore⟩ :=
      makeRequest_active .feed (bootingBegun (surgeOver s)).cfg.cost.feed unrestoring
    rw [begun] at fed
    have fed := requests.trans fed
    have seq := congrArg State.seq fed
    have gate : (settleEnds s).gate = s.gate.handed .surgeEnd :=
      (congrArg State.gate fed).trans ((gate_of_besideEngine (makeRequest_besideEngine ..)).trans (surgeOver_gate s))
    refine ⟨_, r, ends, (congrArg Sequencer.state seq :), (congrArg Sequencer.settle seq :), fun silent => ?_,
      (congrArg (·.claim.request) fed).trans active, pool, ?_, restore, fun marked => ?_,
      fun sync empty held => ?_, same⟩
    · exact (congrArg Sequencer.contactTimer seq).trans (by simp [silent])
    · rw [units]
      exact congrArg (·.cost.feed) (surgeOver_kept s).cfg
    · rw [gate]
      exact GateMark.handed_emitted marked
    · exact (congrArg (·.slot .release) fed).trans
        ((makeRequest_release _ _ (bootingBegun (surgeOver s))).trans (surgeOver_release sync empty held))
  · have finishes : settleEnds s = _ := bootingActs_finishes (s := surgeOver s) (by rwa [surgeOver_seq])
    have powered : (bootingBegun (surgeOver s)).pins.powerGood = true :=
      (congrArg Pins.powerGood (surgeOver_kept s).pins).trans on
    have seq := (congrArg State.seq finishes).trans (enterFinishing_seq _ powered)
    refine ⟨_, ends, (congrArg Sequencer.state seq :), (congrArg Sequencer.shutdown seq :), ?_, same⟩
    exact (congrArg Sequencer.finish seq).trans (by rw [surgeOver_seq])

end Sys2Proof.Machine
end

