-- ==== Sys2Proof/Proofs/Views.lean ====
section
/-! PROOFS. The bytes of the seven views (R153, R161 to R168, 10.9): O60. -/

namespace Sys2Proof.Machine

variable {s : State}

/-- R153: the action of the boot record by state. -/
theorem bootAction_code (s : State) : s.bootAction.code =
    if s.seq.state = .awaitGood ∨ s.seq.state = .settle ∨ (s.seq.state = .booting ∧ s.seq.go = false) then 1
    else if s.seq.state = .booting ∨ s.seq.state = .imaging then 2
    else if s.seq.state = .finishing ∨ s.seq.state = .cooldown then 3 else 0 := by
  unfold State.bootAction
  cases s.seq.state with
  | booting => cases s.seq.go <;> rfl
  | _ => rfl

theorem flagByte_beq (x y : Standing) : flagByte (x == y) = if x = y then 1 else 0 := by simp [flagByte]

/-- 10.9: the due flags are three bits of one byte. -/
theorem dueByte_eq (s : State) : s.dueByte =
    BitVec.ofNat 8 ((if s.night.startDue then 1 else 0) + (if s.night.deadlineDue then 2 else 0)
      + (if s.night.graceDue then 4 else 0)) := by
  unfold State.dueByte
  cases s.night.startDue <;> cases s.night.deadlineDue <;> cases s.night.graceDue <;> rfl

/-- R166: the entries that show a presence are counted. -/
theorem presenceCount_eq (s : State) (p : Presence) :
    s.presenceCount p = s.replica.roster.countP fun e => e.presence == p := List.countP_eq_length_filter.symm

theorem poolTableBytes_eq {pools : PerPool PoolRecord} {pool : Pool → List Byte}
    (bytes : ∀ p x, x = pools.get p → pool p = [BitVec.ofNat 8 x.capacity, BitVec.ofNat 8 x.inUse,
      hi8 x.generation, lo8 x.generation, BitVec.ofNat 8 x.reserver, BitVec.ofNat 8 x.reserved]) :
    poolTableBytes pools = pool .surge ++ pool .load ++ pool .feed := by
  rw [bytes .surge _ rfl, bytes .load _ rfl, bytes .feed _ rfl]
  rfl

/-- Settles O60: each view as its fields in order; the derived fields of views 1 and 4 have lemmas of their own. -/
theorem viewsShowTheState : Obligations.ViewsShowTheState := by
  refine fun s => ⟨rfl, ?_, ?_, ?_, ?_, ?_, rfl⟩
  · rintro action rfl
    rw [← bootAction_code, State.viewBytes, State.bootView, flagByte_beq]
    rfl
  · rintro p rfl
    rfl
  · rintro o p rfl rfl
    rfl
  · rintro n start deadline grace pool count rfl rfl rfl rfl pools counts
    rw [counts, counts, counts, ← presenceCount_eq, ← presenceCount_eq, ← presenceCount_eq, ← dueByte_eq,
      State.viewBytes, State.summaryView, poolTableBytes_eq pools]
    simp only [List.append_assoc]
    rfl
  · rintro e p age rfl rfl rfl
    rfl

end Sys2Proof.Machine
end

