-- ==== Sys2Proof/Proofs/DeskKept.lean ====
section
/-! PROOFS. What the operations of the blocks keep of the desktop link's registers, of the accepted progress and of the
swallowed presses: one lemma per operation, to be chained. Of the link the blocks write EVENTS, where named events are
raised (R169), and the pending report, which a wake pulse empties (R163). -/

namespace Sys2Proof.Machine

set_option Elab.async false

/-- 8.8: the Desktop Link Port without EVENTS, what was raised since a copy, and the pending report. -/
def LinkPort.quiet (l : LinkPort) : LinkPort := { l with events := 0, raisedSince := 0, report := [] }

/-- 10.8: the word has named places only. -/
def Named (events : Word16) : Prop := events &&& 0x3F1F = events

/-- What the operations of the blocks keep: the registers of the desktop link; the pending report, unless it is emptied;
the range of EVENTS; and the limits of progress and of the swallowed presses. -/
structure DeskKept (z t : State) : Prop where
  quiet : t.link.quiet = z.link.quiet
  report : t.link.report = z.link.report ∨ t.link.report = []
  events : Named z.link.events → Named t.link.events
  progress : t.seq.progress ≤ z.seq.progress
  swallowed : t.seq.swallowed ≤ z.seq.swallowed

/-- 10.8: every event has a named place. -/
theorem Named.bit (e : Event) : Named e.bit := by cases e <;> rfl

theorem Named.or {a b : Word16} (ha : Named a) (hb : Named b) : Named (a ||| b) := by
  unfold Named at *
  rw [BitVec.and_or_distrib_right, ha, hb]

/-- Places that are cleared leave named places. -/
theorem Named.and {a : Word16} (ha : Named a) (b : Word16) : Named (a &&& b) := by
  unfold Named at *
  rw [BitVec.and_assoc, BitVec.and_comm b, ← BitVec.and_assoc, ha]

namespace DeskKept

variable {z s t : State}

/-! ### What the relation gives -/

theorem refl (s : State) : DeskKept s s := ⟨rfl, .inl rfl, id, le_rfl, le_rfl⟩

theorem ite {c : Prop} [Decidable c] (hs : DeskKept z s) (ht : DeskKept z t) : DeskKept z (if c then s else t) := by
  split <;> assumption

/-- An operation that writes neither the link nor the sequencer. -/
theorem still (h : DeskKept z s) (link : t.link = s.link := by rfl) (seq : t.seq = s.seq := by rfl) :
    DeskKept z t where
  quiet := link ▸ h.quiet
  report := link ▸ h.report
  events := link ▸ h.events
  progress := seq ▸ h.progress
  swallowed := seq ▸ h.swallowed

/-- An operation of the Claim Engine, the queue or the mark source. -/
theorem beside (h : DeskKept z s) (same : t.besideEngine = s.besideEngine := by simp) : DeskKept z t :=
  h.still (congrArg State.link same :) (seq_of_besideEngine same)

theorem view (h : DeskKept z t) : t.link.view = z.link.view := (congrArg LinkPort.view h.quiet :)
theorem index (h : DeskKept z t) : t.link.index = z.link.index := (congrArg LinkPort.index h.quiet :)
theorem station (h : DeskKept z t) : t.link.station = z.link.station := (congrArg LinkPort.station h.quiet :)
theorem mask (h : DeskKept z t) : t.link.mask = z.link.mask := (congrArg LinkPort.mask h.quiet :)

/-! ### Writing one block -/

theorem setMember (h : DeskKept z s) {x : Member} : DeskKept z (s.setMember x) := h.still
theorem setNight (h : DeskKept z s) {x : NightUnit} : DeskKept z (s.setNight x) := h.still
theorem setGate (h : DeskKept z s) {x : GateMark} : DeskKept z (s.setGate x) := h.still
theorem setRli (h : DeskKept z s) {x : Rli} : DeskKept z (s.setRli x) := h.still
theorem setSlot (h : DeskKept z s) {src : Source} {x : Slot} : DeskKept z (s.setSlot src x) := h.still

/-- A write of the sequencer by which neither progress nor the swallowed presses rise. -/
theorem setSeq (h : DeskKept z s) {x : Sequencer} (progress : x.progress ≤ s.seq.progress := by exact le_rfl)
    (swallowed : x.swallowed ≤ s.seq.swallowed := by exact le_rfl) : DeskKept z (s.setSeq x) :=
  ⟨h.quiet, h.report, h.events, progress.trans h.progress, swallowed.trans h.swallowed⟩

theorem raise (h : DeskKept z s) (e : Event) : DeskKept z (raise e s) :=
  ⟨h.quiet, h.report, fun named => (h.events named).or (.bit e), h.progress, h.swallowed⟩

/-! ### Marks and the gate -/

theorem milestone (h : DeskKept z s) (k : MarkKind) : DeskKept z (milestone k s) :=
  .ite h (.ite (h.setGate.beside (putMark_besideEngine _ _)) h.setGate)

theorem comparator (h : DeskKept z s) (progress : Nat) (later : Option MarkKind) :
    DeskKept z (comparator progress later s) := by
  unfold Machine.comparator
  refine .ite ?_ h
  cases later with
  | none => exact h.milestone _
  | some k => exact .ite (h.milestone _) ((h.milestone _).milestone _)

theorem markDelivered (h : DeskKept z s) (b : Body) : DeskKept z (markDelivered b s) :=
  (ite h.setGate h : DeskKept z (if s.carriedNewest b then _ else s)).beside (presentHeldMark_besideEngine _)

theorem emittedFor (h : DeskKept z s) (night : Word16) : DeskKept z (emittedFor night s) := .ite h h.setGate

theorem gateReady (h : DeskKept z s) (night : Word16) : DeskKept z (gateReady night s) := .ite h h.setGate

theorem startPatience (h : DeskKept z s) : DeskKept z (startPatience s) := .ite h h.setGate

/-! ### What the Claim Engine tells (R137 to R140, R149) -/

/-- R163: the wake pulse empties the pending report. -/
theorem wakeStart (h : DeskKept z s) : DeskKept z (wakeStart s) := by
  have woken : DeskKept z (s.setSeq { s.seq with progress := 0 }) := h.setSeq (Nat.zero_le _)
  refine beside (s := (s.setSeq _).setLink _) ?_ (stateMark_besideEngine _)
  exact ⟨woken.quiet, .inr rfl, woken.events, woken.progress, woken.swallowed⟩

theorem wakeTest (h : DeskKept z s) : DeskKept z (wakeTest s) := .ite h.wakeStart h

theorem requestSurge (h : DeskKept z s) : DeskKept z (requestSurge s) := wakeTest h.beside

theorem loadGranted (h : DeskKept z s) : DeskKept z (loadGranted s) := .ite h.requestSurge h

theorem requestLoad (h : DeskKept z s) : DeskKept z (requestLoad s) := .ite (loadGranted h.beside) h.beside

theorem feedGranted (h : DeskKept z s) : DeskKept z (feedGranted s) := .ite (h.setSeq.raise _) h

theorem requestFeed (h : DeskKept z s) : DeskKept z (requestFeed s) := .ite (feedGranted h.beside) h.beside

theorem toldGranted (h : DeskKept z s) (p : Pool) : DeskKept z (toldGranted p s) := by
  cases p with
  | load => exact h.loadGranted
  | surge => exact h.wakeTest
  | feed => exact h.feedGranted

theorem remakeDeferred (h : DeskKept z s) : DeskKept z (remakeDeferred s) := by
  unfold Machine.remakeDeferred
  split
  · exact h
  · exact .ite (toldGranted h.beside _) h.beside

theorem tellGrant (h : DeskKept z s) : DeskKept z (tellGrant s) := by
  unfold Machine.tellGrant
  split
  · exact h
  · exact .ite h.remakeDeferred (h.toldGranted _)

theorem rereadTold (h : DeskKept z s) : DeskKept z (rereadTold s) := .ite (tellGrant h.beside) h.beside

theorem claimingStart (h : DeskKept z s) : DeskKept z (claimingStart s) := .ite h.requestLoad h

theorem noteOff (h : DeskKept z s) : DeskKept z (noteOff s) := .ite (remakeDeferred h.beside) h

/-! ### From state to state (7.2) -/

theorem enterState (h : DeskKept z s) (st : SeqState) : DeskKept z (enterState st s) :=
  (h.setSeq (x := { s.seq with state := st })).beside (stateMark_besideEngine _)

theorem enterWith (h : DeskKept z s) (k : MarkKind) (st : SeqState) : DeskKept z (enterWith k st s) :=
  h.setSeq.milestone k

theorem setOutcome (h : DeskKept z s) (o : NightOutcome) (skip : Option SkipReason) :
    DeskKept z (setOutcome o skip s) := .ite (h.setSeq.raise _) h.setSeq

theorem setLate (h : DeskKept z s) : DeskKept z (setLate s) := h.setSeq

theorem setFinish (h : DeskKept z s) (f : FinishOutcome) : DeskKept z (setFinish f s) := h.setSeq

theorem enterClaiming (h : DeskKept z s) : DeskKept z (enterClaiming s) := (h.enterState _).claimingStart

theorem evaluateGate (h : DeskKept z s) : DeskKept z (evaluateGate s) := .ite h.setGate.enterClaiming h

theorem readGate (h : DeskKept z s) : DeskKept z (readGate s) := .ite h.enterClaiming h

theorem enterGated (h : DeskKept z s) : DeskKept z (enterGated s) :=
  (((h.emittedFor _).gateReady _).enterState _).evaluateGate.readGate

/-! ### Taking up a night (R133 to R136) -/

theorem takeUp (h : DeskKept z s) : DeskKept z (takeUp s) :=
  (h.setSeq (Nat.zero_le _) (Nat.zero_le _)).emittedFor _

theorem takeUpSkipped (h : DeskKept z s) (reason : SkipReason) : DeskKept z (takeUpSkipped reason s) :=
  (h.takeUp.enterWith _ _).setOutcome _ _

theorem takeUpRunning (h : DeskKept z s) : DeskKept z (takeUpRunning s) :=
  .ite (h.takeUpSkipped _) (.ite (h.takeUpSkipped _)
    (.ite ((h.takeUp.enterWith _ _).setOutcome _ _) h.takeUp.enterGated))

theorem takeUpClosed (h : DeskKept z s) (reason : SkipReason) : DeskKept z (takeUpClosed reason s) :=
  h.takeUpSkipped _

theorem lookNewer (h : DeskKept z s) : DeskKept z (lookNewer s) :=
  .ite (.ite h.takeUpRunning (.ite (h.takeUpSkipped _) h)) h

/-! ### Leaving for a terminal state (R145, R148, R151, R152) -/

theorem finishDone (h : DeskKept z s) : DeskKept z (finishDone s) :=
  ((h.setSeq.enterState _).noteOff.beside (releaseAsk_besideEngine _ _)).setOutcome _ _ |>.lookNewer

theorem finishingActs (h : DeskKept z s) : DeskKept z (finishingActs s) := by
  have acts : DeskKept z (releaseAsk (onlyPool .feed) (s.setSeq { s.seq with
      go := false, contactTimer := .stopped, progressTimer := .stopped, shutdown := .running Config.shutdown })) :=
    (h.setSeq).beside (releaseAsk_besideEngine _ _)
  exact .ite acts acts.finishDone

theorem enterFinishing (h : DeskKept z s) (f : FinishOutcome) : DeskKept z (enterFinishing f s) :=
  ((h.setFinish f).enterState _).finishingActs

theorem localEntry (h : DeskKept z s) : DeskKept z (localEntry s) :=
  have left : DeskKept z (releaseAsk everyPool (cancelAll s)) := h.beside
  ((left.enterWith _ _).setOutcome _ _).lookNewer

theorem skipNight (h : DeskKept z s) (reason : SkipReason) (after : NightOutcome) :
    DeskKept z (skipNight reason after s) :=
  have left : DeskKept z (releaseAsk everyPool (cancelAll s)) := h.beside
  have skipped := left.enterWith .skipped .skipped
  (ite (skipped.setOutcome _ _) (skipped.setOutcome _ _)).lookNewer

theorem longPress (h : DeskKept z s) : DeskKept z (longPress s) := h.setSeq.localEntry

theorem failAttempt (h : DeskKept z s) (c : Cause) : DeskKept z (failAttempt c s) :=
  (h.setSeq (x := s.seq.failed c)).beside (failAttempt_besideEngine c s)

/-! ### Settling, booting and cooldown (R139, R140, R147) -/

theorem bootingActs (h : DeskKept z s) : DeskKept z (bootingActs s) := by
  unfold Machine.bootingActs
  dsimp only
  split
  · exact h.setSeq.requestFeed
  · exact h.setSeq.requestFeed
  · exact h.setSeq.enterFinishing _
  · exact h.setSeq.enterFinishing _
  · exact h.setSeq.enterFinishing _

theorem settleEnds (h : DeskKept z s) : DeskKept z (settleEnds s) := by
  have released : DeskKept z (releaseAsk (onlyPool .surge) (s.setSeq { s.seq with settle := .stopped })) :=
    (h.setSeq).beside (releaseAsk_besideEngine _ _)
  exact (released.enterWith _ _).bootingActs

theorem cooldownEnds (h : DeskKept z s) : DeskKept z (cooldownEnds s) := by
  have ends (k : MarkKind) (st : SeqState) (o : NightOutcome) :
      DeskKept z (Machine.lookNewer (Machine.setOutcome o none (Machine.enterWith k st s))) :=
    ((h.enterWith k st).setOutcome _ _).lookNewer
  unfold Machine.cooldownEnds
  refine .ite (ends _ _ _) ?_
  split
  · exact h.enterClaiming
  · exact h.enterGated
  · exact ends _ _ _
  · exact ends _ _ _
  · exact ends _ _ _

/-! ### The night moving underneath (R134, R136, R148) -/

theorem gatedStanding (h : DeskKept z s) : DeskKept z (gatedStanding s) := by
  unfold Machine.gatedStanding
  split
  · exact h
  · exact h.readGate
  · exact h.skipNight _ _
  · exact h.skipNight _ _
  · exact h.skipNight _ _

theorem claimingStanding (h : DeskKept z s) : DeskKept z (claimingStanding s) := by
  have left : DeskKept z (releaseAsk everyPool (cancelAll s)) := h.beside
  unfold Machine.claimingStanding
  split
  · exact left.enterGated
  · exact h
  · exact h.skipNight _ _
  · exact h.skipNight _ _
  · exact h.skipNight _ _

theorem bootingStanding (h : DeskKept z s) : DeskKept z (bootingStanding s) := by
  have cancelled {s : State} (h : DeskKept z s) (f : FinishOutcome) :
      DeskKept z (Machine.enterFinishing f (cancelFor .feed s)) :=
    (h.beside (cancelFor_besideEngine _ _)).enterFinishing f
  unfold Machine.bootingStanding
  split
  · exact h
  · exact h
  · exact cancelled h _
  · exact h
  · exact cancelled h.setLate _
  · exact h.setLate
  · exact cancelled h.setLate _
  · exact h.setLate.enterFinishing _

theorem imagingStanding (h : DeskKept z s) : DeskKept z (imagingStanding s) := by
  unfold Machine.imagingStanding
  split
  · exact h
  · exact h
  · exact h
  · exact h.setLate
  · exact h.setLate.setFinish _

theorem lateStanding (h : DeskKept z s) : DeskKept z (lateStanding s) := by
  unfold Machine.lateStanding
  split
  · exact h
  · exact h
  · exact h
  · exact h.setLate
  · exact h.setLate

theorem standingReaction (h : DeskKept z s) : DeskKept z (standingReaction s) := by
  unfold Machine.standingReaction
  split
  · exact h.gatedStanding
  · exact h.claimingStanding
  · exact h.bootingStanding
  · exact h.imagingStanding
  case h_5 | h_6 | h_7 | h_8 => exact h.lateStanding
  all_goals exact h

theorem workStanding (h : DeskKept z s) : DeskKept z (workStanding s) := .ite h (standingReaction h.setSeq)

theorem busyNotice (h : DeskKept z s) : DeskKept z (busyNotice s) :=
  workStanding (ite h.setSeq h : DeskKept z (noteNewer s))

theorem nightNotice (h : DeskKept z s) (aborted : Bool) : DeskKept z (nightNotice aborted s) := by
  unfold Machine.nightNotice
  refine .ite ?_ h.busyNotice
  split
  · exact h.takeUpRunning
  · exact h.takeUpClosed _
  · exact .ite (h.takeUpClosed _) h
  all_goals exact h

theorem reviewIdle (h : DeskKept z s) : DeskKept z (reviewIdle s) :=
  .ite (.ite h.takeUpRunning h) (.ite h.lookNewer h)

theorem review (h : DeskKept z s) : DeskKept z (review s) :=
  (ite h.reviewIdle h.reviewIdle.busyNotice).wakeTest.readGate

theorem toldLost (h : DeskKept z s) (lost : PerPool Bool) : DeskKept z (toldLost lost s) := by
  unfold Machine.toldLost
  split
  · exact .ite (requestLoad h.beside) h.claimingStart
  · exact .ite (requestFeed h.setSeq) h
  all_goals exact h

/-! ### Contact and reports (R141 to R144) -/

theorem bootRecordRead (h : DeskKept z s) : DeskKept z (bootRecordRead s) := .ite h.setSeq h

/-- R143: the flags of a report write neither progress nor the link, beside EVENTS and the pending report. -/
theorem reportFlags (h : DeskKept z s) (progress : Nat) (transfer image failed : Bool) :
    DeskKept z (reportFlags progress transfer image failed s) := by
  have booted : DeskKept z (firstReport s) := .ite (h.enterWith _ _) h
  have transferred : DeskKept z (transferReport (firstReport s)) :=
    (booted.setSeq.beside (releaseAsk_besideEngine _ _)).milestone _
  have imaged {s : State} (h : DeskKept z s) : DeskKept z (imageReport s) :=
    ((ite h (h.setFinish _)).enterWith _ _).finishingActs
  have taken : DeskKept z (if (transfer || image) && !(firstReport s).seq.transferDone then
      transferReport (firstReport s) else firstReport s) := .ite transferred booted
  exact .ite (booted.failAttempt _) ((ite (imaged taken) taken).comparator _ _)

/-! ### What the Claim Engine does at the notices of an application (R100 to R110) -/

theorem claimWon (h : DeskKept z s) (p : Pool) (units : Nat) : DeskKept z (claimWon p units s) :=
  .ite (tellGrant h.beside) h.beside

theorem ownClaim (h : DeskKept z s) (pool units : Byte) (v : Verdict) : DeskKept z (ownClaim pool units v s) := by
  unfold Machine.ownClaim
  split
  · exact h
  · exact .ite (claimWon h.beside _ _) (.ite (h.claimWon _ _) (.ite h.beside h))

theorem ownRelease (h : DeskKept z s) (u : PerPool Nat) : DeskKept z (ownRelease u s) := claimingStart h.beside

theorem losePools (h : DeskKept z s) (lost : PerPool Bool) : DeskKept z (losePools lost s) :=
  (ite (rereadTold h.beside) h).toldLost _

theorem reclaimedSelf (h : DeskKept z s) : DeskKept z (reclaimedSelf s) := losePools h.beside _

theorem engineNotice (h : DeskKept z s) (r0 : Replica) (own : Bool) (b : Body) (v : Verdict) :
    DeskKept z (engineNotice r0 own b v s) := by
  unfold Machine.engineNotice
  split
  · exact h.ownClaim _ _ _
  · split
    · exact .ite h.beside h
    · exact h
  · exact h.beside
  · exact h.beside
  · exact h.ownRelease _
  · exact .ite h.reclaimedSelf h
  · exact .ite h.beside h
  · exact .ite h.beside h
  · exact h

theorem rereadParked (h : DeskKept z s) (s0 : State) : DeskKept z (rereadParked s0 s) := by
  unfold Machine.rereadParked
  split
  · exact .ite h.rereadTold h
  · exact h

theorem claimEmptied (h : DeskKept z s) : DeskKept z (claimEmptied s) := rereadTold h.beside

theorem claimWaiting (h : DeskKept z s) : DeskKept z (claimWaiting s) := .ite (claimEmptied h.beside) h

theorem poolsFound (h : DeskKept z s) (found : PerPool Bool) : DeskKept z (poolsFound found s) := by
  unfold Machine.poolsFound
  dsimp only
  split
  · exact .ite (tellGrant h.beside) h.beside
  · exact h.beside

theorem reconcile (h : DeskKept z s) : DeskKept z (reconcile s) := by
  have recorded : DeskKept z (takeReservation (takeRecord s)) := h.beside
  have restored (s1 : State) (h1 : DeskKept z s1) (lost : PerPool Bool) :
      DeskKept z (if lost.load = true ∧ s1.powered = true then startRestore s1 else s1) := .ite h1.beside h1
  exact claimingStart (toldLost (poolsFound ((restored _ recorded _).beside (unparkUnusable_besideEngine _)) _) _)

theorem engineEntry (h : DeskKept z s) : DeskKept z (engineEntry s) :=
  have settled := h.reconcile.beside (settleOwed_besideEngine _) |>.rereadTold
  settled.beside ((judgeWatch_besideEngine _).trans (setClaim_besideEngine _ _))

/-! ### The Night Unit (R77, R81, R83, R84) -/

theorem orderSilence (h : DeskKept z s) (line : LineBytes) : DeskKept z (orderSilence line s) := by
  have checked {s : State} (m : List Byte) (h : DeskKept z s) : DeskKept z (checkMessage m s) := by
    unfold checkMessage
    split
    · exact h.setNight
    · dsimp only
      split
      · exact h.setNight.setNight
      · exact h.setNight.setNight.beside (place_besideEngine _ _ _)
  exact .ite (checked _ h.setNight.setNight) h.setNight

theorem rejudgeRelay (h : DeskKept z s) : DeskKept z (rejudgeRelay s) := by
  unfold Machine.rejudgeRelay
  split
  · split
    · exact h.setSlot.setNight
    · exact .ite h h.setSlot
  · exact h

theorem expireCount (h : DeskKept z s) (c : NightCount) : DeskKept z (expireCount c s) := by
  cases c <;> exact h.setNight

theorem runCount (h : DeskKept z s) (c : NightCount) (duration age : Nat) : DeskKept z (runCount c duration age s) := by
  have set (x : Timer) : DeskKept z (setCount c x s) := by cases c <;> exact h.setNight
  exact .ite (h.expireCount c) (set _)

theorem countsAt (h : DeskKept z s) (st : NightState) : DeskKept z (countsAt st s) := by
  unfold Machine.countsAt
  split
  · exact h.setNight
  · exact h.setNight
  · exact h.setNight
  all_goals exact h

theorem raiseRunning (h : DeskKept z s) : DeskKept z (raiseRunning s) := .ite (h.raise _) h

theorem patienceRunning (h : DeskKept z s) : DeskKept z (patienceRunning s) := .ite h.startPatience h

theorem nightApplied (h : DeskKept z s) (b : Body) (age : Nat) : DeskKept z (nightApplied b age s) := by
  have ordered : DeskKept z (orderCounts age s) := runCount (ite h.setNight (runCount h.setNight _ _ _)) _ _ _
  have stepped : DeskKept z (Machine.raiseRunning (nightCounts age s)) :=
    raiseRunning (.ite ((h.countsAt _).runCount _ _ _) (h.countsAt _))
  unfold Machine.nightApplied
  split
  · exact ordered.raiseRunning.setGate.patienceRunning.rejudgeRelay
  · exact (ite (stepped.raise _) stepped).patienceRunning.rejudgeRelay
  · exact h

/-! ### The answerer and the series watch (R52 to R57) -/

theorem startAnswer (h : DeskKept z s) (asker : Nat) : DeskKept z (startAnswer asker s) :=
  h.setMember.beside (placeRun0_besideEngine _)

theorem stopSeries (h : DeskKept z s) : DeskKept z (stopSeries s) := h.setMember.beside (withdraw_besideEngine _ _)

theorem placeRun (h : DeskKept z s) (k : Nat) : DeskKept z (placeRun k s) := by
  unfold Machine.placeRun
  split
  · exact h.setMember.beside (place_besideEngine _ _ _)
  · exact h

theorem seriesDelivered (h : DeskKept z s) (b : Body) : DeskKept z (seriesDelivered b s) := by
  have begun : DeskKept z (beginSeries s) := h.setMember.placeRun _
  have run (k : Nat) : DeskKept z (runDelivered k s) :=
    .ite h (.ite h.setMember (.ite h.setMember (h.placeRun _)))
  unfold Machine.seriesDelivered
  split
  · exact .ite ((ite begun (run _)).beside (answerAgain_besideEngine _)) h
  · exact h

theorem seriesDropped (h : DeskKept z s) (b : Body) : DeskKept z (seriesDropped b s) :=
  (ite h h.setMember).beside (answerAgain_besideEngine _)

theorem endWatch (h : DeskKept z s) : DeskKept z (endWatch s) := by
  unfold Machine.endWatch
  split
  · exact .ite (h.setMember.setMember.startAnswer _) h.setMember
  · exact h

theorem watchRun (h : DeskKept z s) (sender k : Nat) : DeskKept z (watchRun sender k s) := by
  unfold Machine.watchRun
  refine .ite h.setMember ?_
  split
  · exact .ite h.setMember h.endWatch
  · exact h

theorem run0Applied (h : DeskKept z s) (own : Bool) : DeskKept z (run0Applied own s) := by
  unfold Machine.run0Applied
  dsimp only
  refine .ite h.setMember.setMember (.ite h.setMember.stopSeries ?_)
  split
  · exact .ite (h.setMember.beside (withdraw_besideEngine _ _)) h.setMember
  · exact h.setMember
  · exact h.setMember

theorem catchUpNotice (h : DeskKept z s) (own : Bool) (sender : Nat) (b : Body) :
    DeskKept z (catchUpNotice own sender b s) := by
  have asked : DeskKept z (askApplied sender s) := .ite h.setMember (.ite h (h.startAnswer _))
  unfold Machine.catchUpNotice
  split
  · exact .ite h asked
  · exact (ite (h.run0Applied _) h).watchRun _ _
  · exact h

/-! ### Applying a frame (R36, R41) -/

theorem applyParts (h : DeskKept z s) (own : Bool) (sender : Nat) (b : Body) (age : Nat) :
    DeskKept z (applyParts own sender b age s) := by
  have applied : DeskKept z (s.setReplica (applyFrame s.replica sender b).1) := h.still
  exact (ite (applied.nightApplied _ _) applied).engineNotice _ _ _ _

theorem applyLive (h : DeskKept z s) (own : Bool) (sender : Nat) (b : Body) :
    DeskKept z (applyLive own sender b s) := by
  have applied := (h.applyParts own sender b 0).rereadParked s
  have noticed : DeskKept z (nightNotices b (Machine.rereadParked s (Machine.applyParts own sender b 0 s))) :=
    (applied.beside ((refreshRun0_besideEngine _).trans (workStep_besideEngine _))).nightNotice _
  have gated {s : State} (r : Replica) (h : DeskKept z s) :
      DeskKept z (if gateConcerned r s then Machine.evaluateGate s else s) := .ite h.evaluateGate h
  exact ((gated _ (ite noticed applied)).catchUpNotice _ _ _).beside (judgeWatch_besideEngine _)

/-! ### The membership states (R48 to R69) -/

theorem joinEntry (h : DeskKept z s) : DeskKept z (joinEntry s) :=
  h.setMember.setMember.beside (placeAsk_besideEngine _)

theorem isolate (h : DeskKept z s) (duplicate : Bool) : DeskKept z (isolate duplicate s) := by
  have left : DeskKept z (suspendEngine (clearAnswerer (clearJoiner s))) := h.still
  exact .ite ((left.setMember.setRli.raise _).raise _) (left.setMember.setRli.raise _)

theorem askUnsuccessful (h : DeskKept z s) : DeskKept z (askUnsuccessful s) :=
  .ite (h.isolate _) (h.setMember.beside (placeAsk_besideEngine _))

theorem abandon (h : DeskKept z s) : DeskKept z (abandon s) := h.setMember.askUnsuccessful

theorem seriesGapOver (h : DeskKept z s) : DeskKept z (seriesGapOver s) := by
  unfold Machine.seriesGapOver
  dsimp only
  split
  · exact h.abandon.setMember
  · exact h.abandon

theorem askDropped (h : DeskKept z s) : DeskKept z (askDropped s) := .ite h.setMember.askUnsuccessful h

theorem enterSync (h : DeskKept z s) : DeskKept z (enterSync s) := by
  have entered : DeskKept z (Machine.engineEntry (syncEntry s)) := engineEntry h.still
  have patient : DeskKept z (patienceAtSync (workStep (Machine.engineEntry (syncEntry s)))) :=
    .ite (entered.beside (workStep_besideEngine _)).startPatience (entered.beside (workStep_besideEngine _))
  exact review (patient.evaluateGate.beside (keepMark_besideEngine _))

theorem replay (answerer : Nat) (buffer : List BufferEntry) :
    ∀ (done : Nat) {s : State}, DeskKept z s → DeskKept z (replay answerer done buffer s) := by
  induction buffer with
  | nil => exact fun _ _ h => h.still
  | cons e rest ih =>
    exact fun done s h =>
      ih _ ((h.still (t := runsChange answerer (e.lastRun - done) s)).applyParts e.own e.sender e.body e.age)

theorem install (h : DeskKept z s) (a : Adopted) : DeskKept z (install a s) := by
  have written : DeskKept z (countsFromRun0 a.run0
      ((s.setReplica (snapshotReplica s.freeCount a.run0 a.runs)).setFreeCount (s.freeCount + 1))) := h.still
  exact ((replay a.answerer s.member.buffer 0 written).setMember).enterSync

theorem joiningFrame (h : DeskKept z s) (own : Bool) (sender : Nat) (b : Body) :
    DeskKept z (joiningFrame own sender b s) := by
  have late : DeskKept z (lateFrame sender b s) := by
    unfold lateFrame
    split
    · exact .ite h.setMember h
    · exact h
  unfold Machine.joiningFrame
  refine .ite h (.ite late ?_)
  split
  · exact .ite h.setMember h.setMember
  · exact h
  · exact h.setMember

theorem collectingFrame (h : DeskKept z s) (own : Bool) (sender : Nat) (b : Body) :
    DeskKept z (collectingFrame own sender b s) := by
  unfold Machine.collectingFrame
  split
  · exact .ite h.setMember (.ite (.ite (h.install _) h.setMember) h.abandon)
  · exact .ite h.setMember h.abandon
  · exact .ite h.setMember h.abandon
  · exact h

theorem handOver (h : DeskKept z s) (own : Bool) (sender : Nat) (b : Body) : DeskKept z (handOver own sender b s) := by
  unfold Machine.handOver
  split
  case h_5 => exact h.joiningFrame _ _ _
  case h_6 => exact h.collectingFrame _ _ _
  case h_7 => exact h.applyLive _ _ _
  all_goals exact h

theorem desync (h : DeskKept z s) : DeskKept z (desync s) := by
  have owed : DeskKept z (forgetRelay (oweWaiting s)) := (h.beside (oweWaiting_besideEngine s)).setNight
  have queue : DeskKept z (desyncQueue s) := owed.beside (by simp [desyncQueue])
  have left {u : State} (h : DeskKept z u) : DeskKept z (clearReplica (suspendEngine
      (Machine.raise .desync ((clearAnswerer u).setMember { (clearAnswerer u).member with watch := none })))) :=
    (h.raise .desync).still
  exact (left queue).joinEntry

theorem rejoinStation (h : DeskKept z s) : DeskKept z (rejoinStation s) :=
  h.still (rejoinStation_rejoined s).2 (seq_of_bringUp (rejoinStation_bringUp s))

theorem duplicateReported (h : DeskKept z s) : DeskKept z (duplicateReported s) := by
  unfold Machine.duplicateReported
  split
  case h_1 | h_2 | h_3 => exact h.isolate _
  all_goals exact h

/-! ### What a source does when its attempt ends -/

theorem toldCleared (h : DeskKept z s) (src : Source) (b : Body) : DeskKept z (toldCleared src b s) := by
  cases src with
  | claim => exact claimEmptied (h.beside (claimLeft_besideEngine _))
  | order => exact h.setNight
  | night => exact h.beside (workStep_besideEngine _)
  | release => exact h.beside (releaseLost_besideEngine _ _)
  | reclaim => exact h.beside (judgeWatch_besideEngine _)
  | mark => exact h.beside (presentHeldMark_besideEngine _)
  | ask => exact h.beside (askEmptied_besideEngine _)
  | series => exact h.beside (answerAgain_besideEngine _)

theorem toldDelivered (h : DeskKept z s) (src : Source) (b : Body) : DeskKept z (toldDelivered src b s) := by
  cases src with
  | claim => exact claimEmptied (h.beside (claimLeft_besideEngine _))
  | order => exact h.setNight
  | night => exact h.beside (workStep_besideEngine _)
  | release => exact h.beside (releaseDelivered_besideEngine _)
  | reclaim => exact h.beside (judgeWatch_besideEngine _)
  | mark => exact h.markDelivered b
  | ask => exact (ite h.setMember h : DeskKept z (askDelivered s)).beside (askEmptied_besideEngine _)
  | series => exact h.seriesDelivered b

theorem toldDropped (h : DeskKept z s) (src : Source) (b : Body) : DeskKept z (toldDropped src b s) := by
  cases src with
  | claim => exact claimEmptied (h.beside ((unparkDropped_besideEngine b _).trans (claimLeft_besideEngine s)))
  | order => exact h.setNight
  | night => exact h.beside (workStep_besideEngine _)
  | release => exact h.beside (releaseDropped_besideEngine _ _)
  | reclaim => exact h.beside (judgeWatch_besideEngine _)
  | mark => exact h.beside (markDropped_besideEngine _)
  | ask => exact h.askDropped.beside (askEmptied_besideEngine _)
  | series => exact h.seriesDropped b

theorem slotWaiting (h : DeskKept z s) (src : Source) : DeskKept z (slotWaiting src s) := by
  cases src with
  | claim => exact h.claimWaiting
  | night => exact h.beside (workStep_besideEngine _)
  | release => exact h.beside (releaseWaiting_besideEngine _)
  | reclaim => exact h.beside (judgeWatch_besideEngine _)
  | mark => exact h.beside (presentHeldMark_besideEngine _)
  | order => exact h
  | ask => exact h
  | series => exact h

theorem attemptBack (h : DeskKept z s) (src : Source) (q : Queued) (cleared : Bool) :
    DeskKept z (attemptBack src q cleared s) :=
  .ite (h.setSlot.toldCleared src q.body) (h.setSlot.slotWaiting src)

/-! ### Attempts and the ends of frames (R4, R7, R9, R11, R14 to R19) -/

theorem startAttempt (h : DeskKept z s) : DeskKept z (startAttempt s) := by
  obtain same | ⟨src, f, -, started⟩ := startAttempt_cases s
  · rwa [same]
  · rw [started]
    exact h.beside

theorem loseArbitration (h : DeskKept z s) : DeskKept z (loseArbitration s) := by
  unfold Machine.loseArbitration
  split
  · exact h
  · split
    · exact h.setRli.attemptBack _ _ _
    · exact h
    · exact h

theorem collide (h : DeskKept z s) : DeskKept z (collide s) := by
  have noted {s : State} (h : DeskKept z s) : DeskKept z (noteCollision s) :=
    .ite h.setRli.duplicateReported h.setRli
  unfold Machine.collide
  split
  · exact h
  · split
    · exact noted (h.attemptBack _ _ _)
    · exact h
    · exact h

theorem lineSticks (h : DeskKept z s) : DeskKept z (lineSticks s) := by
  have back : DeskKept z (backAtStuck s) := by
    unfold backAtStuck
    split
    · exact h
    · split
      · exact h.attemptBack _ _ _
      · exact h
      · exact h
  exact back.setRli.raise _

theorem ownVetoed (h : DeskKept z s) (src : Source) (q : Queued) (cleared : Bool) :
    DeskKept z (ownVetoed src q cleared s) :=
  have counted : DeskKept z (resetVetoRun (countVetoed (s.setRli { s.rli with collisions := 0 }))) := h.still
  .ite ((counted.setSlot.raise _).toldDropped src q.body) (counted.attemptBack _ _ _)

theorem heardVetoed (h : DeskKept z s) (faulty : Bool) : DeskKept z (heardVetoed faulty s) := by
  have reported {s : State} (h : DeskKept z s) : DeskKept z (raiseVetoRun s) :=
    .ite h.setRli (.ite h.setRli.desync h.setRli)
  exact .ite (reported h.setRli) (.ite h.setRli.setRli.abandon h.setRli.setRli)

theorem delivered (h : DeskKept z s) (own : Bool) (sender : Nat) (b : Body) :
    DeskKept z (Machine.handOver own sender b (countDelivery own sender s)) := by
  have counted : DeskKept z ((resetVetoRun (countDelivered s)).setLastHeard (resetAge s.lastHeard sender)) := h.still
  exact (ite (counted.setRli.beside (keepRestart_besideEngine _)) counted).handOver _ _ _

theorem frameEndsDelivered (h : DeskKept z s) (f : LineFrame) : DeskKept z (frameEndsDelivered f s) := by
  have own {s : State} (src : Source) (b : Body) (cleared : Bool) (h : DeskKept z s) :
      DeskKept z (ownSlotEmptied src b cleared s) := .ite (h.setSlot.toldCleared _ _) (h.setSlot.toldDelivered _ _)
  unfold Machine.frameEndsDelivered
  split
  · split
    · exact h
    · split
      · exact .ite (own _ _ _ (h.delivered _ _ _)) h
      · exact h
      · exact h
  · refine .ite ?_ h
    split
    · exact h.delivered _ _ _
    · exact h.setRli.heardVetoed _
    · exact h.setRli.heardVetoed _
    · exact h

theorem frameEndsVetoed (h : DeskKept z s) (f : LineFrame) : DeskKept z (frameEndsVetoed f s) := by
  unfold Machine.frameEndsVetoed
  split
  · split
    · exact h
    · split
      · exact .ite (h.ownVetoed _ _ _) h
      · exact h
      · exact h
  · refine .ite ?_ h
    split
    · exact h.heardVetoed _
    · exact h.setRli.heardVetoed _
    · exact h.setRli.heardVetoed _
    · exact h

/-! ### The power lines and the timers (R50, R55, R97, R120, R129, R130, R137 to R152) -/

theorem powerGoodRises (h : DeskKept z s) : DeskKept z (powerGoodRises s) := by
  unfold Machine.powerGoodRises
  split
  · exact h.setSeq
  · exact h.localEntry
  · exact h.localEntry
  all_goals exact h

theorem powerGoodFalls (h : DeskKept z s) : DeskKept z (powerGoodFalls s) := by
  unfold Machine.powerGoodFalls
  split
  case h_4 => exact h.finishDone
  case h_1 | h_2 | h_3 => exact h.failAttempt _
  all_goals exact h

theorem pressBegins (h : DeskKept z s) : DeskKept z (pressBegins s) := by
  unfold Machine.pressBegins
  split
  case h_6 | h_7 => exact h.setSeq.localEntry
  all_goals exact h.setSeq

theorem pressHeldOut (h : DeskKept z s) : DeskKept z (pressHeldOut s) := by
  unfold Machine.pressHeldOut
  dsimp only
  split
  case h_9 | h_10 | h_11 | h_12 | h_13 => exact h.setSeq.setSeq
  all_goals exact h.setSeq.setSeq.longPress

theorem askWaitOver (h : DeskKept z s) : DeskKept z (askWaitOver s) :=
  .ite h.setMember.setMember.enterSync h.setMember.askUnsuccessful

theorem watchGapOver (h : DeskKept z s) : DeskKept z (watchGapOver s) := (ite h h.stopSeries).endWatch

theorem claimAgeOver (h : DeskKept z s) : DeskKept z (claimAgeOver s) := by
  unfold Machine.claimAgeOver
  split
  · exact claimEmptied h.beside
  · exact h.beside
  · exact h.beside

theorem gatePatienceOver (h : DeskKept z s) (ht : execGatePatienceExpiry s = .next t) : DeskKept z t := by
  obtain rfl := Host.Outcome.next.inj ht
  split
  · exact h.setGate.evaluateGate
  · exact h
  · exact h

end DeskKept

end Sys2Proof.Machine
end

