-- ==== Sys2Proof/Proofs/LinkRanges.lean ====
section
/-! PROOFS. O7: every command keeps the ranges of the desktop link, of the accepted progress and of the swallowed
presses. -/

namespace Sys2Proof.Machine

set_option Elab.async false

/-- R156 to R159, R163, 10.8: what of the link port has a range. -/
def LinkPort.ranged (l : LinkPort) : Nat × Nat × Nat × List Byte × Word16 × Byte :=
  (l.view, l.index, l.station, l.report, l.events, l.mask)

/-- R156: no view is empty. -/
theorem viewLength_pos {v : Nat} (h : v ≤ 6) : 0 < viewLength v := by
  interval_cases v <;> decide

/-- R142: an accepted progress is in range. -/
theorem judgeReport_range {s : State} {progress : Nat} (h : judgeReport s progress = .accepted) :
    progress ≤ Config.maxProgress := by
  unfold judgeReport at h
  split_ifs at h with reporting go range rises
  exact Nat.le_of_not_lt range

namespace LinkRanges

variable {s t : State}

/-! ### What the invariant needs -/

theorem kept (h : LinkRanges s) (k : DeskKept s t) : LinkRanges t where
  view := k.view ▸ h.view
  index := by
    rw [k.index, k.view]
    exact h.index
  station := k.station ▸ h.station
  report := by
    obtain same | empty := k.report
    · exact same ▸ h.report
    · rw [empty]
      exact Nat.zero_le _
  events := k.events h.events
  mask := k.mask ▸ h.mask
  progress := k.progress.trans h.progress
  swallowed := k.swallowed.trans h.swallowed

theorem congr (h : LinkRanges s) (link : t.link.ranged = s.link.ranged := by rfl)
    (progress : t.seq.progress = s.seq.progress := by rfl) (swallowed : t.seq.swallowed = s.seq.swallowed := by rfl) :
    LinkRanges t := by
  simp only [LinkPort.ranged, Prod.mk.injEq] at link
  obtain ⟨view, index, station, report, events, mask⟩ := link
  constructor
  · rw [view]; exact h.view
  · rw [index, view]; exact h.index
  · rw [station]; exact h.station
  · rw [report]; exact h.report
  · rw [events]; exact h.events
  · rw [mask]; exact h.mask
  · rw [progress]; exact h.progress
  · rw [swallowed]; exact h.swallowed

theorem ite {c : Prop} [Decidable c] (hs : c → LinkRanges s) (ht : ¬ c → LinkRanges t) :
    LinkRanges (if c then s else t) := by
  split
  case isTrue h => exact hs h
  case isFalse h => exact ht h

/-- The selectors and the report are written within their ranges, and nothing else that has one. -/
theorem selected (h : LinkRanges s) {x : LinkPort} (view : x.view ≤ 6) (index : x.index < viewLength x.view)
    (station : 1 ≤ x.station ∧ x.station ≤ Config.stations) (report : x.report.length ≤ 2)
    (events : x.events = s.link.events := by rfl) (mask : x.mask = s.link.mask := by rfl) : LinkRanges (s.setLink x) :=
  ⟨view, index, station, report, events.symm ▸ h.events, mask.symm ▸ h.mask, h.progress, h.swallowed⟩

/-- R170: events are cleared. -/
theorem cleared (h : LinkRanges s) (b : Word16) :
    LinkRanges (s.setLink { s.link with events := s.link.events &&& b }) :=
  ⟨h.view, h.index, h.station, h.report, Named.and h.events b, h.mask, h.progress, h.swallowed⟩

/-! ### Writes (R155, R157 to R159, R163, R170, R171) -/

theorem busWrite (h : LinkRanges s) (r : Register) {effect : State → State}
    (he : ∀ {s}, LinkRanges s → LinkRanges (effect s)) : LinkRanges (busWrite r effect s) :=
  .ite (fun _ => (he h).congr) fun _ => h.congr

theorem busCommand (h : LinkRanges s) {effect : State → State}
    (he : ∀ {s}, LinkRanges s → LinkRanges (effect s)) : LinkRanges (busCommand effect s) :=
  h.busWrite _ fun h => .ite (fun _ => h) fun _ => he h.congr

theorem pointTo (h : LinkRanges s) (address : BitVec 7) (b : Byte) : LinkRanges (pointTo address b s) := by
  unfold Machine.pointTo
  refine .ite (fun _ => ?_) fun _ => h.congr
  split <;> exact h.congr

theorem writeView (h : LinkRanges s) (value : Byte) : LinkRanges (writeView value s) :=
  .ite (fun view => h.selected view (viewLength_pos view) h.station (Nat.zero_le _)) fun _ => h

theorem writeIndex (h : LinkRanges s) (value : Byte) : LinkRanges (writeIndex value s) := by
  refine h.selected h.view ?_ h.station (Nat.zero_le _)
  dsimp only
  split
  case isTrue inside => exact inside
  case isFalse => exact viewLength_pos h.view

theorem writeStation (h : LinkRanges s) (value : Byte) : LinkRanges (writeStation value s) :=
  .ite (fun station => h.selected h.view h.index station h.report) fun _ => h

/-- R142, R143: a report is refused with an event, or its progress accepted and its flags acted on. -/
theorem takeReport (h : LinkRanges s) (progress : Nat) (transfer image failed : Bool) :
    LinkRanges (takeReport progress transfer image failed s) := by
  refine .ite (fun accepted => ?_) fun _ => h.kept (.raise (.refl s) _)
  have reported : LinkRanges (s.setSeq { s.seq with
      progress := progress, progressTimer := .running Config.progress }) :=
    ⟨h.view, h.index, h.station, h.report, h.events, h.mask, judgeReport_range accepted, h.swallowed⟩
  exact reported.kept (.beside (.reportFlags (.refl _) progress transfer image failed) (progressMark_besideEngine _))

theorem writeData (h : LinkRanges s) (value : Byte) : LinkRanges (writeData value s) := by
  refine .ite (fun ⟨view, index⟩ => .ite (fun short => ?_) fun _ => ?_) fun _ => h
  · rw [List.length_append, List.length_singleton] at short
    refine h.selected h.view ?_ h.station ?_
    · rw [view, index]
      exact short
    · rw [List.length_append, List.length_singleton]
      exact Nat.le_of_lt_succ short
  · have emptied : LinkRanges (s.setLink { s.link with report := [], index := 0 }) :=
      h.selected h.view (viewLength_pos h.view) h.station (Nat.zero_le _)
    exact (emptied.takeReport _ _ _ _).congr

theorem writeEvents (h : LinkRanges s) (position : Nat) (value : Byte) : LinkRanges (writeEvents position value s) := by
  unfold Machine.writeEvents
  split
  · exact h
  · exact h.cleared _

theorem writeMask (h : LinkRanges s) (position : Nat) (value : Byte) : LinkRanges (writeMask position value s) :=
  .ite (fun _ => ⟨h.view, h.index, h.station, h.report, h.events, BitVec.and_assoc .., h.progress, h.swallowed⟩)
    fun _ => h

/-! ### Reads (R155, R158, R160, R170) -/

/-- R158, R159: the return to 0 past the last byte of view 5 advances STATION around the forty. -/
theorem advanceIndex (h : LinkRanges s) : LinkRanges (advanceIndex s) := by
  refine .ite (fun inside => h.selected h.view inside h.station h.report) fun _ =>
    h.selected h.view (viewLength_pos h.view) ?_ h.report
  obtain ⟨first, last⟩ := h.station
  dsimp only
  split_ifs
  · exact ⟨le_rfl, Nat.succ_le_succ (Nat.zero_le _)⟩
  · omega
  · exact ⟨first, last⟩

theorem readData (h : LinkRanges s) : LinkRanges (readData s) := by
  have told (x : LinkPort) (h : LinkRanges (s.setLink x)) : LinkRanges (passBegun (s.setLink x)) :=
    .ite (fun _ => h.congr) fun _ => .ite (fun _ => h.kept (.bootRecordRead (.refl _))) fun _ => h
  have pass : LinkRanges (if s.beginsPass then beginPass s else s) := .ite (fun _ => told _ h.congr) fun _ => h
  have driven (b : Byte) : LinkRanges (busDrives b (if s.beginsPass then beginPass s else s)) := pass.congr
  have discarded {s : State} (h : LinkRanges s) : LinkRanges (s.setLink { s.link with report := [] }) :=
    h.selected h.view h.index h.station (Nat.zero_le _)
  exact (ite (fun _ => discarded (driven _)) fun _ => driven _).advanceIndex

theorem readEvents (h : LinkRanges s) (position : Nat) : LinkRanges (readEvents position s) := by
  have copied : LinkRanges (copyEvents position s) := .ite (fun _ => h.congr) fun _ => h
  have driven (b : Byte) : LinkRanges (busDrives b (copyEvents position s)) := copied.congr
  unfold Machine.readEvents
  split
  · exact h.congr
  · exact .ite (fun _ => (driven _).cleared _) fun _ => h.congr

theorem busRead (h : LinkRanges s) (address : BitVec 7) (position : Nat) :
    LinkRanges (busRead address position s) := by
  have ended : LinkRanges (endWrite s) := h.congr
  refine .ite (fun _ => ?_) fun _ => h.congr
  unfold readRegister
  split
  · exact ended.readData
  · exact ended.readEvents _
  all_goals exact h.congr

/-! ### Commands of the link (R70, R172), verdicts (R173, R176, R177), the end of a press (R152) -/

theorem takeRejoin (h : LinkRanges s) : LinkRanges (takeRejoin s) :=
  .ite (fun _ => h.congr) fun _ => (h.kept (.rejoinStation (.refl s))).congr

theorem takeCommand (h : LinkRanges s) (code argument : Byte) : LinkRanges (takeCommand code argument s) :=
  .ite (fun _ => h.takeRejoin) fun _ => .ite (fun _ => h.congr) fun _ => h.congr

theorem configFault (h : LinkRanges s) : LinkRanges (configFault s) :=
  (h.congr (t := (s.setLoader _).setLink _)).kept (.raise (.setMember (.refl _)) _)

theorem configVerdict (h : LinkRanges s) (block : List Byte) :
    LinkRanges (if blockValid block then configValid block s else Machine.configFault s) :=
  .ite (fun _ => (h.congr (t := State.setLink _ _)).kept (.joinEntry (.refl _))) fun _ => h.configFault

/-- R152: the swallowed presses stop at their limit. -/
theorem pressEnds (h : LinkRanges s) : LinkRanges (pressEnds s) := by
  refine ⟨h.view, h.index, h.station, h.report, h.events, h.mask, h.progress, ?_⟩
  unfold Machine.pressEnds
  dsimp only [setSeq_seq]
  split_ifs
  · exact Nat.min_le_right _ _
  · exact h.swallowed

theorem cold (pins : Pins) (pending : List Instr) : LinkRanges (State.cold pins pending) where
  view := Nat.zero_le _
  index := Nat.zero_lt_succ _
  station := show 1 ≤ 1 ∧ 1 ≤ 40 by decide
  report := Nat.zero_le _
  events := show (0 : Word16) &&& 0x3F1F = 0 by decide
  mask := show (0x1F : Byte) &&& 0x1F = 0x1F by decide
  progress := Nat.zero_le _
  swallowed := Nat.zero_le _

/-! ### Every command -/

/-- What holds of the state a command answers holds of the next state. -/
theorem answered {x : State} (hx : LinkRanges x)
    (h : (.next x : Host.Outcome State Fault Refusal) = .next t) : LinkRanges t := by
  obtain rfl := Host.Outcome.next.inj h
  exact hx

/-- A command that only lets the blocks act. -/
theorem acted (hs : LinkRanges s) {x : State} (hx : DeskKept s s → DeskKept s x)
    (h : (.next x : Host.Outcome State Fault Refusal) = .next t) : LinkRanges t := answered (hs.kept (hx (.refl s))) h

theorem exec (hs : LinkRanges s) : ∀ {c : Instr}, exec c s = .next t → LinkRanges t
  | .coldStart p q r, h => answered ((cold ⟨q, p, r⟩ s.pending).congr (t := State.setFreeCount _ _)) h
  | .configReadDone block, h => answered (.ite (fun _ => hs.configVerdict block) fun _ => hs) h
  | .readLimitExpiry, h => answered (.ite (fun _ => hs.configFault) fun _ => hs) h
  | .attemptStart, h => hs.acted (fun k => k.startAttempt) h
  | .lostArbitration, h => hs.acted (fun k => k.loseArbitration) h
  | .collision, h => hs.acted (fun k => k.collide) h
  | .lostFraming, h => hs.acted (fun k => .ite (k.setRli.heardVetoed _) k) h
  | .frameDelivered f, h => hs.acted (fun k => k.frameEndsDelivered f) h
  | .frameVetoed f, h => hs.acted (fun k => k.frameEndsVetoed f) h
  | .stuckLine, h => hs.acted (fun k => .ite k.lineSticks k) h
  | .stuckLineClear, h => hs.acted (fun k => k.setRli) h
  | .orderMessage line, h => hs.acted (fun k => .ite (k.orderSilence line) k) h
  | .pointerWrite address byte, h => answered (hs.pointTo address byte) h
  | .viewWrite value, h => answered (hs.busWrite _ fun h => h.writeView value) h
  | .indexWrite value, h => answered (hs.busWrite _ fun h => h.writeIndex value) h
  | .stationWrite value, h => answered (hs.busWrite _ fun h => h.writeStation value) h
  | .dataRead address, h => answered (hs.busRead address 0) h
  | .dataWrite value, h => answered (hs.busWrite _ fun h => h.writeData value) h
  | .eventsRead address position, h => answered (hs.busRead address position) h
  | .eventsWrite position value, h => answered (hs.busWrite _ fun h => h.writeEvents position value) h
  | .eventMaskWrite position value, h => answered (hs.busWrite _ fun h => h.writeMask position value) h
  | .rejoin _, h => answered (hs.busCommand takeRejoin) h
  | .probe _, h => answered (hs.busCommand fun h => h.congr) h
  | .unknownCommand code argument, h => answered (hs.busCommand fun h => h.takeCommand code argument) h
  | .powerGoodRise, h => hs.acted (fun k => .ite k (.powerGoodRises k.still)) h
  | .powerGoodFall, h => hs.acted (fun k => .ite (.powerGoodFalls k.still) k) h
  | .supplyReqRelease, h => hs.acted (fun k => .ite k.still (.setSeq (s := s.setPins _) k.still)) h
  | .pressBegin, h => hs.acted (fun k => .ite k (.pressBegins k.still)) h
  | .pressEnd, h => answered (.ite (fun _ => (hs.congr (t := s.setPins _)).pressEnds) fun _ => hs) h
  | .pressTimerExpiry, h => hs.acted (fun k => .ite k.pressHeldOut k) h
  | .askWaitExpiry, h => hs.acted (fun k => .ite k.askWaitOver k) h
  | .seriesGapExpiry, h => hs.acted (fun k => .ite k.seriesGapOver k) h
  | .seriesWatchGapExpiry, h => hs.acted (fun k => .ite k.watchGapOver k) h
  | .seriesPauseEnd, h => hs.acted (fun k => .ite (k.placeRun _) k) h
  | .isolatedCooldownExpiry, h => hs.acted (fun k => .ite k.rejoinStation k) h
  | .nightCountExpiry c, h => hs.acted (fun k => .ite ((k.expireCount c).beside (workStep_besideEngine _)) k) h
  | .run0SecondTick, h => hs.acted (fun k => k.beside (refreshRun0_besideEngine s)) h
  | .claimAgeExpiry, h => hs.acted (fun k => .ite k.claimAgeOver k) h
  | .keepTimerExpiry, h =>
    hs.acted (fun k => .ite (k.beside ((keepMark_besideEngine _).trans (setClaim_besideEngine _ _))) k) h
  | .lastHeardTick, h =>
    hs.acted (fun k => .ite k (.beside (s := s.setLastHeard _) k.still (judgeWatch_besideEngine _))) h
  | .gatePatienceExpiry, h => hs.kept (.gatePatienceOver (.refl s) h)
  | .wakePulseEnd, h => hs.acted (fun k => k.setSeq) h
  | .goodLimitExpiry, h => hs.acted (fun k => .ite (k.failAttempt _) k) h
  | .settleExpiry, h => hs.acted (fun k => .ite k.settleEnds k) h
  | .contactTimerExpiry, h => hs.acted (fun k => .ite (k.failAttempt _) k) h
  | .progressTimerExpiry, h => hs.acted (fun k => .ite (k.failAttempt _) k) h
  | .shutdownTimerExpiry, h => hs.acted (fun k => .ite k.setSeq.finishDone k) h
  | .cooldownExpiry _, h => hs.acted (fun k => .ite (.cooldownEnds (.setSeq (s := s.setPins _) k.still)) k) h

end LinkRanges

/-- Settles O7: the blocks keep the ranges (`DeskKept`), and so does each command of the link port; a cold start and the
loader's verdicts write none of it, or its initial values. -/
theorem linkRangesKept : Obligations.LinkRangesKept := fun _ _ ranges run =>
  step_keeps (P := LinkRanges) (fun _ h => h.congr) (fun h => h.congr) (fun run h => h.exec run) run ranges

end Sys2Proof.Machine
end

