-- ==== Sys2Proof/Proofs/DeskRegisters.lean ====
section
/-! PROOFS. The registers of the desktop link (R155, R157 to R159, R169 to R172, 10.8): the pointer and the selectors
(O55), EVENTS and EVENT_MASK (O58), ATTN and PROBE (O59). -/

namespace Sys2Proof.Machine

set_option Elab.async false

variable {s t : State} {a : BitVec 7} {b v : Byte} {r : Register}

/-! ### The pointer (R155) -/

theorem answersAt_iff : s.answersAt a = true ↔ s.answering = true ∧ s.link.address = a.setWidth 8 := by
  simp [State.answersAt]

theorem not_answersAt (h : s.answering = false ∨ s.link.address ≠ a.setWidth 8) : s.answersAt a = false := by
  rw [Bool.eq_false_iff, Ne, answersAt_iff]
  rintro ⟨answers, address⟩
  obtain silent | other := h
  · exact nomatch silent.symm.trans answers
  · exact other address

/-- R156: the numbers of the registers are 0x10 to 0x16. -/
theorem Register.ofNumber_none (h : b.toNat < 0x10 ∨ 0x16 < b.toNat) : Register.ofNumber b = none := by
  have other (n : Byte) (named : 0x10 ≤ n.toNat ∧ n.toNat ≤ 0x16) : b ≠ n := by
    rintro rfl
    omega
  unfold Register.ofNumber
  rw [if_neg (other 0x10 (by decide)), if_neg (other 0x11 (by decide)), if_neg (other 0x12 (by decide)),
    if_neg (other 0x13 (by decide)), if_neg (other 0x14 (by decide)), if_neg (other 0x15 (by decide)),
    if_neg (other 0x16 (by decide))]

/-- R155: a write transaction to the register whose number is written. -/
theorem pointTo_register (answers : s.answersAt a = true) (number : Register.ofNumber b = some r) :
    pointTo a b s = s.setLink { s.link with
      pointer := r, writing := true, commandDone := false, busByte := none, busAck := true } := by
  rw [pointTo, if_pos answers, number]
  rfl

/-- R155: an unknown number, another address or LOADING leave no write transaction under way. -/
theorem pointTo_silent (h : s.answersAt a = false ∨ Register.ofNumber b = none) :
    pointTo a b s = s.setLink { s.link with writing := false, busByte := none, busAck := false } := by
  unfold pointTo
  obtain silent | unknown := h
  · rw [silent]
    rfl
  · rw [unknown]
    split_ifs <;> rfl

theorem exec_pointerWrite (a : BitVec 7) (b : Byte) (s : State) :
    exec (.pointerWrite a b) s = .next (pointTo a b s) := rfl

/-! ### Bytes that no register takes (R155) -/

/-- R155: the commands that write a byte to a register. -/
inductive WritesTo : Register → Instr → Prop where
  | view (v : Byte) : WritesTo .view (.viewWrite v)
  | index (v : Byte) : WritesTo .index (.indexWrite v)
  | station (v : Byte) : WritesTo .station (.stationWrite v)
  | data (v : Byte) : WritesTo .data (.dataWrite v)
  | events (i : Nat) (v : Byte) : WritesTo .events (.eventsWrite i v)
  | eventMask (i : Nat) (v : Byte) : WritesTo .eventMask (.eventMaskWrite i v)
  | rejoin (v : Byte) : WritesTo .command (.rejoin v)
  | probe (v : Byte) : WritesTo .command (.probe v)
  | unknown (k v : Byte) : WritesTo .command (.unknownCommand k v)

theorem exec_silent {c : Instr} (writes : WritesTo r c) (ignored : s.takesWrite r = false) :
    exec c s = .next (s.setLink { s.link with busByte := none, busAck := false }) := by
  cases writes with
  | rejoin | probe | unknown => exact congrArg Host.Outcome.next (busCommand_silent ignored)
  | _ => exact congrArg Host.Outcome.next (busWrite_silent ignored)

/-- A byte that is taken: its command answers its effect, acknowledged. -/
theorem exec_taken {c : Instr} {effect : State → State} (takes : s.takesWrite r = true)
    (run : exec c s = .next (busWrite r effect s) := by rfl) : exec c s = .next (busTaken (effect s)) := by
  rw [run, busWrite_taken takes]

/-- R159: STATION after a write. -/
theorem writeStation_eq (v : Byte) (s : State) : writeStation v s = s.setLink { s.link with
    station := if 1 ≤ v.toNat ∧ v.toNat ≤ 40 then v.toNat else s.link.station } := by
  by_cases named : 1 ≤ v.toNat ∧ v.toNat ≤ 40
  · rw [if_pos named]
    exact if_pos named
  · rw [if_neg named]
    exact if_neg named

/-- Settles O55: where the pointer goes (`pointTo_register`, `pointTo_silent`), what a selector takes, and that a byte
no register takes changes none (`exec_silent`). -/
theorem pointerAndSelectorWrites : Obligations.PointerAndSelectorWrites := by
  refine fun s a b v => ⟨fun answers address => ⟨fun r number => ?_, fun unknown => ?_⟩, fun silent => ?_,
    fun takes => ⟨fun inside => ?_, fun outside => ?_⟩, fun takes => exec_taken (effect := writeIndex v) takes,
    fun takes => ?_,
    fun r => takesWrite_iff s r, fun r c k i ignored writes => ?_⟩
  · have points := pointTo_register (answersAt_iff.mpr ⟨answers, address⟩) number
    rw [exec_pointerWrite, points]
    refine ⟨rfl, fun o t run => ?_⟩
    obtain rfl := Host.Outcome.next.inj run
    have loaded : s.loader.state ≠ .reading := by simpa [State.answering] using answers
    rw [takesWrite_iff]
    exact ⟨fun ⟨_, _, pointer⟩ => pointer.symm, fun same => ⟨loaded, rfl, same.symm⟩⟩
  · rw [exec_pointerWrite, pointTo_silent (.inr (Register.ofNumber_none unknown))]
  · rw [exec_pointerWrite, pointTo_silent (.inl (not_answersAt silent))]
  · rw [exec_taken takes, writeView, if_pos inside]
    rfl
  · rw [exec_taken takes, writeView, if_neg (Nat.not_le_of_lt outside)]
    rfl
  · rw [exec_taken takes, writeStation_eq]
    rfl
  · refine exec_silent ?_ ignored
    obtain ⟨rfl, rfl⟩ | ⟨rfl, rfl⟩ | ⟨rfl, rfl⟩ | ⟨rfl, rfl⟩ | ⟨rfl, rfl⟩ | ⟨rfl, rfl⟩ | ⟨rfl, rfl | rfl | rfl⟩ :=
      writes
    all_goals constructor

/-! ### Reads of the registers (R155, R156, 10.8) -/

/-- R155: one byte of a read at the port's address comes from the register the pointer names. -/
theorem exec_read_answered (answers : s.answersAt a = true) (i : Nat) :
    exec (.eventsRead a i) s = .next (readRegister s.link.pointer i (endWrite s)) :=
  congrArg Host.Outcome.next (busRead_answered answers)

theorem exec_read_silent (silent : s.answersAt a = false) (i : Nat) : exec (.eventsRead a i) s =
    .next (s.setLink { s.link with writing := false, busByte := none, busAck := false }) :=
  congrArg Host.Outcome.next (busRead_silent silent)

/-- R155, log 36: a read of DATA is a read of the register the pointer names, at its first byte. -/
theorem exec_dataRead (a : BitVec 7) (s : State) : exec (.dataRead a) s = exec (.eventsRead a 0) s := rfl

theorem byteOfWord_append (h l : Byte) (i : Nat) :
    byteOfWord (h ++ l) i = if i = 0 then h else if i = 1 then l else 0xFF := by
  unfold byteOfWord
  split
  · exact BitVec.extractLsb'_append_eq_left
  · exact BitVec.extractLsb'_append_eq_right
  · rfl

theorem byteOfWord_past (w : Word16) {i : Nat} (past : 2 ≤ i) : byteOfWord w i = 0xFF := by
  obtain ⟨j, rfl⟩ := Nat.exists_eq_add_of_le' past
  rfl

theorem exec_read_register {i : Nat} {byte : Byte} (answers : s.answersAt a = true)
    (shown : (s.link.pointer = .view ∧ byte = BitVec.ofNat 8 s.link.view)
      ∨ (s.link.pointer = .index ∧ byte = BitVec.ofNat 8 s.link.index)
      ∨ (s.link.pointer = .station ∧ byte = BitVec.ofNat 8 s.link.station)
      ∨ (s.link.pointer = .eventMask ∧ byte = if i = 0 then 0x3F else if i = 1 then s.link.mask else 0xFF)
      ∨ (s.link.pointer = .command ∧ byte = if i = 0 then s.link.lastCode
          else if i = 1 then s.link.lastStatus.code else 0xFF)) :
    exec (.eventsRead a i) s = .next (s.setLink { s.link with
      writing := false, busByte := some byte, busAck := true }) := by
  rw [exec_read_answered answers]
  obtain ⟨pointer, rfl⟩ | ⟨pointer, rfl⟩ | ⟨pointer, rfl⟩ | ⟨pointer, rfl⟩ | ⟨pointer, rfl⟩ := shown
  · rw [pointer]; rfl
  · rw [pointer]; rfl
  · rw [pointer]; rfl
  · rw [pointer, ← byteOfWord_append]; rfl
  · rw [pointer, ← byteOfWord_append]; rfl

/-! ### EVENTS (R170) -/

/-- R170: the places of the first byte. -/
theorem wordOfByte_first (w : Word16) : wordOfByte (hi8 w) 0 = w &&& 0xFF00 := by
  refine BitVec.eq_of_getLsbD_eq fun i hi => ?_
  rw [wordOfByte, BitVec.getLsbD_append]
  interval_cases i <;> simp [hi8]

/-- R170: the places of the second byte. -/
theorem wordOfByte_second (w : Word16) : wordOfByte (lo8 w) 1 = w &&& 0x00FF := by
  refine BitVec.eq_of_getLsbD_eq fun i hi => ?_
  rw [wordOfByte, BitVec.getLsbD_append]
  interval_cases i <;> simp [lo8]

/-- R170: a set without what it shows in its first byte. -/
theorem and_not_first (w : Word16) : w &&& ~~~(w &&& 0xFF00 &&& ~~~0) = w &&& 0x00FF := by
  ext i hi
  interval_cases i <;> simp

/-- R170: a byte at position 0 takes a new copy. -/
theorem copyEvents_first (s : State) :
    copyEvents 0 s = s.setLink { s.link with eventsCopy := some s.link.events, raisedSince := 0 } := if_pos (.inl rfl)

/-- R170: a byte at position 1 is of the copy taken before. -/
theorem copyEvents_second {copy : Word16} (taken : s.link.eventsCopy = some copy) : copyEvents 1 s = s :=
  if_neg (not_or.mpr ⟨by decide, by simp [taken]⟩)

/-- R170: in READ_CLEARS the first byte shows and clears the error events. -/
theorem readEvents_first (mode : s.link.clearMode = .readClears) : readEvents 0 s = s.setLink { s.link with
    eventsCopy := some s.link.events, raisedSince := 0, events := s.link.events &&& 0x00FF
    busByte := some (hi8 s.link.events), busAck := true } := by
  rw [← and_not_first, ← wordOfByte_first, readEvents, mode]
  dsimp only
  rw [if_pos (by decide), copyEvents_first]
  rfl

/-- R170: the second byte shows and clears the night events of the copy that were not raised since. -/
theorem readEvents_second {copy : Word16} (mode : s.link.clearMode = .readClears)
    (taken : s.link.eventsCopy = some copy) : readEvents 1 s = s.setLink { s.link with
      events := s.link.events &&& ~~~(copy &&& 0x00FF &&& ~~~s.link.raisedSince)
      busByte := some (lo8 copy), busAck := true } := by
  have shown : s.link.eventsCopy.getD 0 = copy := by rw [taken, Option.getD_some]
  rw [← wordOfByte_second, readEvents, mode]
  dsimp only
  rw [if_pos (by decide), copyEvents_second taken, shown]
  rfl

/-- R170: in WRITE_CLEARS a read changes nothing. -/
theorem readEvents_writeClears (mode : s.link.clearMode = .writeClears) (i : Nat) :
    readEvents i s = busDrives (byteOfWord s.link.events i) s := by
  rw [readEvents, mode]

/-- R155: a byte past the second reads as 0xFF in either mode. -/
theorem readEvents_past {i : Nat} (past : 2 ≤ i) : readEvents i s = busDrives 0xFF s := by
  unfold readEvents
  split
  · rw [byteOfWord_past _ past]
  · exact if_neg (Nat.not_lt_of_le past)

theorem wordOfByte_past (b : Byte) {i : Nat} (past : 2 ≤ i) : wordOfByte b i = 0 := by
  obtain ⟨j, rfl⟩ := Nat.exists_eq_add_of_le' past
  rfl

/-- R170: in WRITE_CLEARS a written 1 clears its event. -/
theorem writeEvents_writeClears (mode : s.link.clearMode = .writeClears) (i : Nat) (v : Byte) :
    writeEvents i v s = s.setLink { s.link with events := s.link.events &&& ~~~(wordOfByte v i) } := by
  rw [writeEvents, mode]

/-- R170: in WRITE_CLEARS a written byte past the second clears nothing. -/
theorem writeEvents_past (mode : s.link.clearMode = .writeClears) {i : Nat} (past : 2 ≤ i) (v : Byte) :
    writeEvents i v s = s := by
  have whole : s.link.events &&& ~~~(0 : Word16) = s.link.events :=
    (congrArg (s.link.events &&& ·) BitVec.not_zero).trans BitVec.and_allOnes
  rw [writeEvents_writeClears mode, wordOfByte_past v past, whole]
  rfl

theorem writeEvents_readClears (mode : s.link.clearMode = .readClears) (i : Nat) (v : Byte) :
    writeEvents i v s = s := by
  rw [writeEvents, mode]

/-- R155, R170: a read of EVENTS by the byte. -/
theorem exec_eventsRead (answers : s.answersAt a = true) (pointer : s.link.pointer = .events) (i : Nat) :
    exec (.eventsRead a i) s = .next (readEvents i (endWrite s)) := by
  rw [exec_read_answered answers, pointer]
  rfl

/-- R170, 10.8: reads of EVENTS at the port's address. -/
theorem eventsRead_bytes (answers : s.answersAt a = true) (pointer : s.link.pointer = .events) :
    (s.link.clearMode = .readClears → ∃ t, exec (.eventsRead a 0) s = .next t
      ∧ t.link.busByte = some (hi8 s.link.events) ∧ t.link.events = s.link.events &&& 0x00FF
      ∧ t.link.eventsCopy = some s.link.events ∧ t.link.pointer = .events ∧ t.link.writing = false ∧ Kept s t
      ∧ t.seq = s.seq ∧ t.rli = s.rli)
    ∧ (∀ copy, s.link.clearMode = .readClears → s.link.eventsCopy = some copy →
      ∃ t, exec (.eventsRead a 1) s = .next t ∧ t.link.busByte = some (lo8 copy)
        ∧ t.link.events = s.link.events &&& ~~~(copy &&& 0x00FF &&& ~~~s.link.raisedSince)
        ∧ t.link.writing = false ∧ Kept s t)
    ∧ (s.link.clearMode = .writeClears → exec (.eventsRead a 0) s = .next (s.setLink { s.link with
      writing := false, busByte := some (hi8 s.link.events), busAck := true })
      ∧ exec (.eventsRead a 1) s = .next (s.setLink { s.link with
        writing := false, busByte := some (lo8 s.link.events), busAck := true }))
    ∧ (∀ i, 2 ≤ i → exec (.eventsRead a i) s = .next (s.setLink { s.link with
      writing := false, busByte := some 0xFF, busAck := true })) := by
  have run := exec_eventsRead answers pointer
  refine ⟨fun mode => ?_, fun copy mode taken => ?_, fun mode => ⟨?_, ?_⟩, fun i past => ?_⟩
  · rw [run, readEvents_first (s := endWrite s) mode]
    exact ⟨_, rfl, rfl, rfl, rfl, pointer, rfl, .setLink (.setLink (.refl s)), rfl, rfl⟩
  · rw [run, readEvents_second (s := endWrite s) mode taken]
    exact ⟨_, rfl, rfl, rfl, rfl, .setLink (.setLink (.refl s))⟩
  · rw [run, readEvents_writeClears (s := endWrite s) mode]
    rfl
  · rw [run, readEvents_writeClears (s := endWrite s) mode]
    rfl
  · rw [run, readEvents_past past]
    rfl

/-- Settles O58: reads of EVENTS (`eventsRead_bytes`) and of the other registers (`exec_read_register`), writes of
EVENTS by the clear mode, and of EVENT_MASK. -/
theorem registerReadsAndEventWrites : Obligations.RegisterReadsAndEventWrites := by
  refine fun s a v => ⟨fun answering address => ?_, fun silent => ?_, fun i pointer => ?_, fun _ => exec_dataRead a s,
    fun takes => ⟨fun mode => ⟨?_, ?_, fun i past => ?_⟩, fun i mode => ?_⟩, fun takes => ⟨?_, fun i other => ?_⟩⟩
  · have answers := answersAt_iff.mpr ⟨answering, address⟩
    exact ⟨eventsRead_bytes answers, fun i byte => exec_read_register answers⟩
  · have silent := not_answersAt silent
    exact ⟨exec_read_silent silent, exec_read_silent silent 0⟩
  · by_cases answers : s.answersAt a = true
    · rw [exec_dataRead, exec_read_answered answers, exec_read_answered answers, pointer]
      rfl
    · rw [Bool.not_eq_true] at answers
      rw [exec_dataRead, exec_read_silent answers, exec_read_silent answers]
  · rw [exec_taken takes, writeEvents_writeClears mode]
    rfl
  · rw [exec_taken takes, writeEvents_writeClears mode]
    rfl
  · rw [exec_taken takes, writeEvents_past mode past]
    rfl
  · rw [exec_taken takes, writeEvents_readClears mode]
    rfl
  · rw [exec_taken takes, writeMask, if_pos rfl]
    rfl
  · rw [exec_taken takes, writeMask, if_neg other]
    rfl

/-! ### ATTN (R171) -/

/-- 10.8: the named places: the night events from 0, the errors from 8. -/
theorem named_places {n : Nat} (named : (0x3F1F : Word16).getLsbD n = true) :
    n ∈ [0, 1, 2, 3, 4, 8, 9, 10, 11, 12, 13] := by
  have bound : n < 16 := BitVec.lt_of_getLsbD named
  revert named
  interval_cases n <;> decide

/-- 10.8: every named place is an event's. -/
theorem exists_event {n : Nat} (named : (0x3F1F : Word16).getLsbD n = true) : ∃ e : Event, e.place = n := by
  have place := named_places named
  simp only [List.mem_cons, List.not_mem_nil, or_false] at place
  obtain rfl | rfl | rfl | rfl | rfl | rfl | rfl | rfl | rfl | rfl | rfl := place
  · exact ⟨.nightRunning, rfl⟩
  · exact ⟨.abortPosted, rfl⟩
  · exact ⟨.goReady, rfl⟩
  · exact ⟨.outcomeReady, rfl⟩
  · exact ⟨.reportRefused, rfl⟩
  · exact ⟨.lineFault, rfl⟩
  · exact ⟨.lineStuck, rfl⟩
  · exact ⟨.desync, rfl⟩
  · exact ⟨.isolated, rfl⟩
  · exact ⟨.duplicateNumber, rfl⟩
  · exact ⟨.configFault, rfl⟩

/-- 10.8: a place that is set is a pending event's. -/
theorem exists_pending (range : Named s.link.events) {n : Nat} (set : s.link.events.getLsbD n = true) :
    ∃ e : Event, e.place = n ∧ s.isPending e = true := by
  have named : (0x3F1F : Word16).getLsbD n = true := by
    rw [← range, BitVec.getLsbD_and, Bool.and_eq_true] at set
    exact set.2
  obtain ⟨e, rfl⟩ := exists_event named
  exact ⟨e, rfl, set⟩

theorem ne_zero_iff_exists_bit {n : Nat} (x : BitVec n) : x ≠ 0 ↔ ∃ i, x.getLsbD i = true := by
  refine ⟨fun differs => ?_, fun ⟨i, set⟩ zero => by simp [zero] at set⟩
  by_contra none_set
  exact differs (BitVec.eq_of_getLsbD_eq fun i _ => by simpa using fun set => none_set ⟨i, set⟩)

/-- R169: the first byte of EVENTS shows the error events. -/
theorem errors_pending (range : Named s.link.events) :
    hi8 s.link.events ≠ 0 ↔ ∃ e : Event, 8 ≤ e.place ∧ s.isPending e = true := by
  rw [ne_zero_iff_exists_bit]
  constructor
  · rintro ⟨i, set⟩
    rw [hi8, BitVec.getLsbD_extractLsb', Bool.and_eq_true] at set
    obtain ⟨e, place, pending⟩ := exists_pending range set.2
    exact ⟨e, place ▸ Nat.le_add_right 8 i, pending⟩
  · rintro ⟨e, error, pending⟩
    have bound : e.place < 16 := BitVec.lt_of_getLsbD pending
    refine ⟨e.place - 8, ?_⟩
    rw [hi8, BitVec.getLsbD_extractLsb', Nat.add_sub_cancel' error, Bool.and_eq_true]
    exact ⟨by simp; omega, pending⟩

/-- R169, R171: the second byte of EVENTS, with the enables, shows the enabled night events. -/
theorem enabled_pending (range : Named s.link.events) : lo8 s.link.events &&& s.link.mask ≠ 0
    ↔ ∃ e : Event, e.place < 8 ∧ s.isPending e = true ∧ s.link.mask.getLsbD e.place = true := by
  rw [ne_zero_iff_exists_bit]
  constructor
  · rintro ⟨i, set⟩
    rw [BitVec.getLsbD_and, lo8, BitVec.getLsbD_extractLsb', Nat.zero_add, Bool.and_eq_true, Bool.and_eq_true,
      decide_eq_true_eq] at set
    obtain ⟨⟨night, set⟩, enabled⟩ := set
    obtain ⟨e, rfl, pending⟩ := exists_pending range set
    exact ⟨e, night, pending, enabled⟩
  · rintro ⟨e, night, pending, enabled⟩
    refine ⟨e.place, ?_⟩
    rw [BitVec.getLsbD_and, lo8, BitVec.getLsbD_extractLsb', Nat.zero_add, Bool.and_eq_true, Bool.and_eq_true,
      decide_eq_true_eq]
    exact ⟨⟨night, pending⟩, enabled⟩

theorem attn_iff (range : Named s.link.events) : s.attn = true ↔ s.loader.state ≠ .reading ∧
    ((∃ e : Event, 8 ≤ e.place ∧ s.isPending e = true)
      ∨ (∃ e : Event, e.place < 8 ∧ s.isPending e = true ∧ s.link.mask.getLsbD e.place = true)
      ∨ s.link.probePending = true) := by
  rw [← errors_pending range, ← enabled_pending range]
  simp only [State.attn, Bool.and_eq_true, Bool.or_eq_true, bne_iff_ne, or_assoc]

/-- R171: the probe-pending flag asserts ATTN once LOADING has ended, whatever EVENTS holds. -/
theorem attn_of_probe (loaded : s.loader.state ≠ .reading) (probe : s.link.probePending = true) : s.attn = true := by
  simp [State.attn, loaded, probe]

/-- Settles O59: when ATTN is asserted (`attn_iff`), and the first and the further commands of a write transaction. -/
theorem attnAndProbe : Obligations.AttnAndProbe := by
  refine ⟨fun s range => attn_iff range.events, fun s code x takes => ⟨fun first => ⟨?_, fun rejoin probe => ?_⟩, ?_⟩⟩
  · refine ⟨_, congrArg Host.Outcome.next (busCommand_taken takes first), attn_of_probe ?_ rfl, rfl⟩
    exact ((takesWrite_iff s .command).mp takes).1
  · refine congrArg Host.Outcome.next ((busCommand_taken takes first).trans ?_)
    rw [takeCommand, if_neg rejoin, if_neg probe]
    rfl
  · rintro done t rfl
    exact ⟨congrArg Host.Outcome.next (busCommand_ignored takes done),
      congrArg Host.Outcome.next (busCommand_ignored takes done)⟩

end Sys2Proof.Machine
end

