-- ==== Sys2Proof/Proofs/DeskData.lean ====
section
/-! PROOFS. The register DATA of the desktop link: read passes (R141, R158, R160 to R163; O56), and progress reports
(R142, R143, R163; O57). -/

namespace Sys2Proof.Machine

set_option Elab.async false

variable {s t : State} {v : Byte}

/-! ### A read of DATA (R158, R160) -/

/-- R156: each view has its length. -/
theorem viewBytes_length (s : State) {v : Nat} (named : v ≤ 6) : (s.viewBytes v).length = viewLength v := by
  interval_cases v <;> rfl

theorem beginsPass_iff : s.beginsPass = true ↔ s.link.index = 0 ∨ s.link.capture = none := by
  simp [State.beginsPass]

/-- R160: the capture that a read of DATA returns a byte of: a new one where a pass begins. -/
def State.captured (s : State) : List Byte :=
  if s.link.index = 0 then s.viewBytes s.link.view else s.link.capture.getD (s.viewBytes s.link.view)

/-- R141: the sequencer after a read of DATA. -/
def State.seqAfterRead (s : State) : Sequencer :=
  if s.link.view = 1 ∧ s.beginsPass = true then (bootRecordRead s).seq else s.seq

/-- R158, R159, R161, R163: the link port after a read of DATA. -/
def State.linkAfterRead (s : State) : LinkPort :=
  { s.link with
    busByte := some (byteAt s.captured s.link.index)
    busAck := true
    capture := some s.captured
    index := if s.link.index + 1 < viewLength s.link.view then s.link.index + 1 else 0
    station := if s.link.view = 5 ∧ viewLength s.link.view ≤ s.link.index + 1 then
        (if s.link.station = 40 then 1 else s.link.station + 1)
      else s.link.station
    report := if s.link.view = 2 then [] else s.link.report
    probePending := if s.link.view = 0 ∧ s.beginsPass = true then false else s.link.probePending }

theorem captured_begins (begins : s.beginsPass = true) : s.captured = s.viewBytes s.link.view := by
  unfold State.captured
  obtain first | none_taken := beginsPass_iff.mp begins
  · rw [if_pos first]
  · rw [none_taken, Option.getD_none, ite_self]

theorem capture_continues (goes_on : ¬ s.beginsPass = true) : s.link.capture = some s.captured := by
  obtain ⟨inside, taken⟩ := not_or.mp (mt beginsPass_iff.mpr goes_on)
  obtain ⟨bytes, capture⟩ := Option.ne_none_iff_exists'.mp taken
  rw [State.captured, if_neg inside, capture, Option.getD_some]

/-- R141: contact is made. -/
theorem bootRecordRead_contact (made : s.seq.contact = false ∧ s.seq.state.inAttempt = true) :
    bootRecordRead s = s.setSeq { s.seq with
      contact := true, contactTimer := .stopped
      progressTimer := if s.seq.state = .booting ∧ s.seq.go = true then .running 600000 else s.seq.progressTimer } :=
  if_pos made

theorem bootRecordRead_other (other : ¬ (s.seq.contact = false ∧ s.seq.state.inAttempt = true)) :
    bootRecordRead s = s := if_neg other

/-- R141: a read of the boot record writes the sequencer alone, whatever the link holds. -/
theorem bootRecordRead_setLink (x : LinkPort) (s : State) :
    bootRecordRead (s.setLink x) = (s.setSeq (bootRecordRead s).seq).setLink x := by
  by_cases made : s.seq.contact = false ∧ s.seq.state.inAttempt = true
  · rw [bootRecordRead_contact (s := s.setLink x) made, bootRecordRead_contact made]
    rfl
  · rw [bootRecordRead_other (s := s.setLink x) made, bootRecordRead_other made]
    rfl

/-- R160: what the beginning of a pass writes, if one begins. -/
theorem pass_eq (s : State) : (if s.beginsPass then beginPass s else s) = (s.setSeq s.seqAfterRead).setLink
    { s.link with
      capture := some s.captured
      probePending := if s.link.view = 0 ∧ s.beginsPass = true then false else s.link.probePending } := by
  unfold State.seqAfterRead
  by_cases begins : s.beginsPass = true
  · rw [if_pos begins, beginPass, ← captured_begins begins, passBegun]
    dsimp only [setLink_link]
    by_cases identity : s.link.view = 0
    · simp [identity, begins]
      rfl
    · by_cases boot : s.link.view = 1
      · simp [boot, begins, bootRecordRead_setLink]
      · simp [identity, boot]
        rfl
  · rw [if_neg begins, if_neg (fun both => begins both.2), if_neg (fun both => begins both.2),
      ← capture_continues begins]
    rfl

/-- R158: INDEX goes on to the next byte, or returns to 0, in view 5 with the next station selected. -/
theorem advanceIndex_eq (s : State) : advanceIndex s = s.setLink { s.link with
    index := if s.link.index + 1 < viewLength s.link.view then s.link.index + 1 else 0
    station := if s.link.view = 5 ∧ viewLength s.link.view ≤ s.link.index + 1 then
        (if s.link.station = 40 then 1 else s.link.station + 1)
      else s.link.station } := by
  unfold advanceIndex
  by_cases inside : s.link.index + 1 < viewLength s.link.view
  · rw [if_pos inside, if_pos inside, if_neg (fun past => Nat.not_le_of_lt inside past.2)]
  · rw [if_neg inside, if_neg inside]
    simp only [Nat.le_of_not_lt inside, and_true]
    rfl

/-- R163: a read of view 2 discards the pending report. -/
theorem discard_eq (s : State) : (if s.link.view = 2 then s.setLink { s.link with report := [] } else s)
    = s.setLink { s.link with report := if s.link.view = 2 then [] else s.link.report } := by
  split_ifs <;> rfl

/-- R158, R160: a read of DATA. -/
theorem readData_eq (s : State) : readData s = (s.setSeq s.seqAfterRead).setLink s.linkAfterRead := by
  have returned (u : State) :
      advanceIndex (if u.link.view = 2 then u.setLink { u.link with report := [] } else u) = u.setLink { u.link with
        index := if u.link.index + 1 < viewLength u.link.view then u.link.index + 1 else 0
        station := if u.link.view = 5 ∧ viewLength u.link.view ≤ u.link.index + 1 then
            (if u.link.station = 40 then 1 else u.link.station + 1)
          else u.link.station
        report := if u.link.view = 2 then [] else u.link.report } := by
    rw [discard_eq, advanceIndex_eq]
    rfl
  unfold readData
  rw [pass_eq]
  exact (returned _).trans rfl

/-- R141: which reads of DATA make contact. -/
theorem seqAfterRead_contact (boot : s.link.view = 1) (begins : s.link.index = 0 ∨ s.link.capture = none)
    (fresh : s.seq.contact = false) (attempt : s.seq.state.inAttempt = true) : s.seqAfterRead = { s.seq with
      contact := true, contactTimer := .stopped
      progressTimer := if s.seq.state = .booting ∧ s.seq.go = true then .running 600000
        else s.seq.progressTimer } := by
  rw [State.seqAfterRead, if_pos ⟨boot, beginsPass_iff.mpr begins⟩, bootRecordRead_contact ⟨fresh, attempt⟩]
  rfl

theorem seqAfterRead_other (other : s.link.view ≠ 1 ∨ (s.link.index ≠ 0 ∧ s.link.capture ≠ none)
    ∨ s.seq.contact = true ∨ s.seq.state.inAttempt = false) : s.seqAfterRead = s.seq := by
  unfold State.seqAfterRead
  split
  case isFalse => rfl
  case isTrue pass =>
    obtain ⟨boot, begins⟩ := pass
    refine congrArg State.seq (bootRecordRead_other fun ⟨fresh, attempt⟩ => ?_)
    obtain view | continues | made | idle := other
    · exact view boot
    · exact not_or.mpr continues (beginsPass_iff.mp begins)
    · exact nomatch made.symm.trans fresh
    · exact nomatch idle.symm.trans attempt

theorem exec_dataRead_data {a : BitVec 7} (answers : s.answersAt a = true) (pointer : s.link.pointer = .data) :
    exec (.dataRead a) s = .next (readData (endWrite s)) := by
  rw [exec_dataRead, exec_read_answered answers, pointer]
  rfl

/-- Settles O56: a read of DATA writes the sequencer and the link port alone (`readData_eq`). -/
theorem dataReadReturnsTheCapture : Obligations.DataReadReturnsTheCapture := by
  rintro s a _ answering address pointer named - rfl
  refine ⟨viewBytes_length s named, _, exec_dataRead_data (answersAt_iff.mpr ⟨answering, address⟩) pointer, ?_⟩
  rw [readData_eq]
  refine ⟨.setLink (.setSeq (.setLink (.refl s))), rfl, rfl, rfl, rfl, rfl, rfl, rfl, rfl, rfl, rfl, rfl, ?_, rfl, rfl,
    rfl, rfl, pointer, rfl, rfl, rfl, rfl, rfl, rfl, rfl, rfl, rfl, rfl,
    seqAfterRead_contact (s := endWrite s), seqAfterRead_other (s := endWrite s)⟩
  simp only [setLink_link, State.linkAfterRead, beginsPass_iff]
  rfl

/-! ### The judgement of a report (R142) -/

/-- R142: the tests of a report by state, in order. -/
theorem judgeReport_eq (s : State) (progress : Nat) : judgeReport s progress =
    if s.seq.state ≠ .booting ∧ s.seq.state ≠ .imaging then ReportStatus.wrongState
    else if s.seq.state = .booting ∧ s.seq.go = false then .notGo
    else if 1000 < progress then .range
    else if progress < s.seq.progress then .decreasing
    else .accepted := by
  unfold judgeReport State.bootAction
  cases s.seq.state with
  | booting => cases s.seq.go <;> rfl
  | _ => rfl

/-- R142: an accepted progress, before the flags of its report. -/
def reported (progress : Nat) (s : State) : State :=
  s.setSeq { s.seq with progress := progress, progressTimer := .running 600000 }

/-- R142, R143: an accepted report writes its progress, and then its flags are acted on. -/
theorem takeReport_accepted {progress : Nat} (accepted : judgeReport s progress = .accepted)
    (transfer image failed : Bool) : takeReport progress transfer image failed s =
      progressMark (reportFlags progress transfer image failed (reported progress s)) := if_pos accepted

theorem takeReport_refused {progress : Nat} (refused : judgeReport s progress ≠ .accepted)
    (transfer image failed : Bool) : takeReport progress transfer image failed s = raise .reportRefused s :=
  if_neg refused

/-! ### The flags of an accepted report (R143) -/

/-- R143, 1: the first report takes the station from BOOTING into IMAGING. -/
theorem firstReport_seq (reporting : s.seq.state = .booting ∨ s.seq.state = .imaging) :
    (firstReport s).seq = { s.seq with state := .imaging } := by
  unfold firstReport
  split
  case isTrue => rw [enterWith_seq]
  case isFalse other => rw [← reporting.resolve_left other]

/-- R122: a milestone takes no kind out of the emitted marks. -/
theorem GateMark.handed_has {k j : MarkKind} {g : GateMark} (h : g.emitted.has j = true) :
    (g.handed k).emitted.has j = true := by
  unfold handed
  split
  · exact h
  · exact (MarkSet.has_add ..).trans (by simp [h])

theorem comparator_has {j : MarkKind} (h : s.gate.emitted.has j = true) (progress : Nat) (later : Option MarkKind) :
    (comparator progress later s).gate.emitted.has j = true := by
  unfold comparator
  split
  · have compared : (milestone .compare s).gate.emitted.has j = true := by
      rw [milestone_gate]
      exact GateMark.handed_has h
    cases later with
    | none => exact compared
    | some k =>
      dsimp only
      split
      · exact compared
      · rw [milestone_gate]
        exact GateMark.handed_has compared
  · exact h

/-- R143, 3: the report that first tells of the transfer writes that it is done. -/
theorem transferred_seq (first : Bool) (s : State) : ∃ done, (if first then transferReport s else s).seq =
    { s.seq with transferDone := done } := by
  cases first with
  | false => exact ⟨s.seq.transferDone, rfl⟩
  | true => exact ⟨true, by simp [transferReport]⟩

theorem transferred_has {j : MarkKind} (h : s.gate.emitted.has j = true) (first : Bool) :
    (if first then transferReport s else s).gate.emitted.has j = true := by
  cases first with
  | false => exact h
  | true =>
    show (transferReport s).gate.emitted.has j = true
    rw [transferReport, milestone_gate, releaseAsk_gate]
    exact GateMark.handed_has h

/-- R143: a report without IMAGE_COMPLETE and AGENT_FAILED leaves the station IMAGING. -/
theorem reportFlags_imaging_seq (reporting : s.seq.state = .booting ∨ s.seq.state = .imaging) (progress : Nat)
    (transfer : Bool) : ∃ done, (reportFlags progress transfer false false s).seq =
      { s.seq with state := .imaging, transferDone := done } := by
  obtain ⟨done, seq⟩ := transferred_seq ((transfer || false) && !(firstReport s).seq.transferDone) (firstReport s)
  refine ⟨done, (comparator_seq _ _ _).trans (seq.trans ?_)⟩
  rw [firstReport_seq reporting]

/-- R143, 1: BOOTED is emitted with the first report. -/
theorem reportFlags_booted (booting : s.seq.state = .booting) (night : s.gate.emittedNight ≠ 0) (progress : Nat)
    (transfer : Bool) : (reportFlags progress transfer false false s).gate.emitted.has .booted = true := by
  have booted : (firstReport s).gate.emitted.has .booted = true := by
    rw [firstReport, if_pos booting, enterWith_gate]
    exact (GateMark.handed_emitted night).1
  exact comparator_has (transferred_has booted _) _ _

/-- R143, 2: AGENT_FAILED ends the attempt. -/
theorem reportFlags_failed_seq (reporting : s.seq.state = .booting ∨ s.seq.state = .imaging) (progress : Nat)
    (transfer image : Bool) : (reportFlags progress transfer image true s).seq =
      Sequencer.failed .agentFailed { s.seq with state := .imaging } := by
  rw [← firstReport_seq reporting]
  exact seq_of_besideEngine (failAttempt_besideEngine .agentFailed (firstReport s))

/-- R145: what entry to FINISHING writes of the sequencer while the desktop is powered. -/
theorem finishingActs_seq (on : s.pins.powerGood = true) : (finishingActs s).seq = { s.seq with
    go := false, contactTimer := .stopped, progressTimer := .stopped, shutdown := .running 180000 } := by
  have k : Kept s (releaseAsk (onlyPool .feed) (s.setSeq { s.seq with
      go := false, contactTimer := .stopped, progressTimer := .stopped, shutdown := .running Config.shutdown })) :=
    .releaseAsk _ (.setSeq (.refl s))
  rw [finishingActs, if_pos (by rw [k.pins, on]), releaseAsk_seq]
  rfl

/-- R143, 4: IMAGE_COMPLETE takes the station into FINISHING. -/
theorem imageReport_seq (on : s.pins.powerGood = true) : ∃ outcome, (imageReport s).seq = { s.seq with
    state := .finishing, finish := outcome, go := false, contactTimer := .stopped, progressTimer := .stopped
    shutdown := .running 180000 } := by
  have k : Kept s (enterWith .imaged .finishing (if s.seq.finish = .aborted then s else setFinish .done s)) :=
    .enterWith _ _ (.ite (.refl s) (.setSeq (.refl s)))
  rw [imageReport, finishingActs_seq (by rw [k.pins, on]), enterWith_seq]
  split
  · exact ⟨s.seq.finish, rfl⟩
  · exact ⟨.done, rfl⟩

/-- R143: a report with IMAGE_COMPLETE passes every step. -/
theorem reportFlags_image (progress : Nat) (transfer : Bool) (s : State) : ∃ first : Bool,
    reportFlags progress transfer true false s = comparator progress (some .imaged)
      (imageReport (if first then transferReport (firstReport s) else firstReport s)) := ⟨_, rfl⟩

theorem reportFlags_image_seq (on : s.pins.powerGood = true)
    (reporting : s.seq.state = .booting ∨ s.seq.state = .imaging) (progress : Nat) (transfer : Bool) :
    ∃ done outcome, (reportFlags progress transfer true false s).seq =
      { s.seq with
        state := .finishing, transferDone := done, finish := outcome, go := false, contactTimer := .stopped
        progressTimer := .stopped, shutdown := .running 180000 } := by
  obtain ⟨first, flags⟩ := reportFlags_image progress transfer s
  have booted : Kept s (firstReport s) := .firstReport (.refl s)
  have k : Kept s (if first then transferReport (firstReport s) else firstReport s) :=
    .ite (.transferReport booted) booted
  obtain ⟨done, seq⟩ := transferred_seq first (firstReport s)
  obtain ⟨outcome, imaged⟩ := imageReport_seq (k.pins ▸ on)
  refine ⟨done, outcome, ?_⟩
  rw [flags, comparator_seq, imaged, seq, firstReport_seq reporting]

/-! ### Writes of DATA (R163) -/

theorem writeData_ignored (other : s.link.view ≠ 2 ∨ s.link.index ≠ s.link.report.length) : writeData v s = s :=
  if_neg (not_and_or.mpr other)

/-- R163: the first two bytes of a report wait. -/
theorem writeData_waits (view : s.link.view = 2) (index : s.link.index = s.link.report.length)
    (short : s.link.report.length < 2) : writeData v s = s.setLink { s.link with
      report := s.link.report ++ [v], index := s.link.index + 1 } := by
  have within : (s.link.report ++ [v]).length < 3 := by
    rw [List.length_append]
    exact Nat.succ_lt_succ short
  rw [writeData, if_pos ⟨view, index⟩]
  exact if_pos within

/-- R163: the pending report and INDEX as the third byte leaves them. -/
def reportEmptied (s : State) : State := s.setLink { s.link with report := [], index := 0 }

/-- R163: the third byte hands the report over. -/
theorem writeData_hands {h l : Byte} (view : s.link.view = 2) (index : s.link.index = 2)
    (report : s.link.report = [h, l]) {taken : State}
    (takes : takeReport (be16 h l).toNat (v.getLsbD 0) (v.getLsbD 1) (v.getLsbD 2) (reportEmptied s) = taken) :
    writeData v s = taken.setLink { taken.link with reportStatus := judgeReport s (be16 h l).toNat } := by
  subst takes
  rw [writeData, if_pos ⟨view, by rw [report, index]; rfl⟩, report]
  rfl

/-- R142, R163: what the third byte of an accepted report leaves, before its status is written. -/
def reportTaken (progress : Nat) (transfer image failed : Bool) (s : State) : State :=
  progressMark (reportFlags progress transfer image failed (reported progress (reportEmptied s)))

theorem reportTaken_kept (progress : Nat) (transfer image failed : Bool) (s : State) :
    Kept s (reportTaken progress transfer image failed s) :=
  .progressMark (.reportFlags _ _ _ _ (.setSeq (.setLink (.refl s))))

theorem reportTaken_deskKept (progress : Nat) (transfer image failed : Bool) (s : State) :
    DeskKept (reported progress (reportEmptied s)) (reportTaken progress transfer image failed s) :=
  .beside (.reportFlags (.refl _) _ _ _ _) (progressMark_besideEngine _)

theorem reportTaken_seq (progress : Nat) (transfer image failed : Bool) (s : State) :
    (reportTaken progress transfer image failed s).seq =
      (reportFlags progress transfer image failed (reported progress (reportEmptied s))).seq :=
  seq_of_besideEngine (progressMark_besideEngine _)

theorem reportTaken_gate (progress : Nat) (transfer image failed : Bool) (s : State) :
    (reportTaken progress transfer image failed s).gate =
      (reportFlags progress transfer image failed (reported progress (reportEmptied s))).gate :=
  gate_of_besideEngine (progressMark_besideEngine _)

/-- R163: no bytes of a report are pending once it is handed over. -/
theorem reportTaken_report (progress : Nat) (transfer image failed : Bool) (s : State) :
    (reportTaken progress transfer image failed s).link.report = [] :=
  (reportTaken_deskKept progress transfer image failed s).report.elim id id

/-- R143: an accepted report without IMAGE_COMPLETE and AGENT_FAILED. -/
theorem reportTaken_imaging (reporting : s.seq.state = .booting ∨ s.seq.state = .imaging) (progress : Nat)
    (transfer : Bool) {t : State} (taken : t = reportTaken progress transfer false false s) :
    t.seq.state = .imaging ∧ t.seq.progress = progress ∧ t.seq.progressTimer = .running 600000
      ∧ (s.seq.state = .booting → s.gate.emittedNight ≠ 0 → t.gate.emitted.has .booted = true) := by
  obtain ⟨done, seq⟩ := reportFlags_imaging_seq (s := reported progress (reportEmptied s)) reporting progress transfer
  rw [taken, reportTaken_gate, reportTaken_seq, seq]
  exact ⟨rfl, rfl, rfl, fun booting night =>
    reportFlags_booted (s := reported progress (reportEmptied s)) booting night progress transfer⟩

/-- R143, 2: an accepted report with AGENT_FAILED. -/
theorem reportTaken_failed (reporting : s.seq.state = .booting ∨ s.seq.state = .imaging) (progress : Nat)
    (transfer image : Bool) {t : State} (taken : t = reportTaken progress transfer image true s) :
    t.seq.state = .cooldown ∧ t.seq.outcome.causes = s.seq.outcome.causes ++ [.agentFailed] := by
  rw [taken, reportTaken_seq, reportFlags_failed_seq (s := reported progress (reportEmptied s)) reporting]
  exact ⟨rfl, rfl⟩

/-- R143, 4: an accepted report with IMAGE_COMPLETE. -/
theorem reportTaken_image (reporting : s.seq.state = .booting ∨ s.seq.state = .imaging)
    (on : s.pins.powerGood = true) (progress : Nat) (transfer : Bool) {t : State}
    (taken : t = reportTaken progress transfer true false s) :
    t.seq.state = .finishing ∧ t.seq.shutdown = .running 180000 ∧ t.seq.progress = progress := by
  obtain ⟨done, outcome, seq⟩ :=
    reportFlags_image_seq (s := reported progress (reportEmptied s)) on reporting progress transfer
  rw [taken, reportTaken_seq, seq]
  exact ⟨rfl, rfl, rfl⟩

theorem writeData_accepted {h l : Byte} (view : s.link.view = 2) (index : s.link.index = 2)
    (report : s.link.report = [h, l]) (accepted : judgeReport s (be16 h l).toNat = .accepted) :
    ∃ taken, taken = reportTaken (be16 h l).toNat (v.getLsbD 0) (v.getLsbD 1) (v.getLsbD 2) s
      ∧ writeData v s = taken.setLink { taken.link with reportStatus := .accepted } :=
  ⟨_, rfl, accepted ▸ writeData_hands view index report (takeReport_accepted (s := reportEmptied s) accepted ..)⟩

/-- Settles O57: a report is refused with its event alone, or its progress is written and its flags acted on. -/
theorem dataWriteTakesReports : Obligations.DataWriteTakesReports := by
  refine fun s v takes => ⟨fun other => ?_, fun view index short => ?_, fun h l status view index report judged => ?_⟩
  · rw [exec_taken takes, writeData_ignored other]
    rfl
  · rw [exec_taken takes, writeData_waits view index short]
    rfl
  · rw [← judgeReport_eq] at judged
    subst judged
    refine ⟨fun refused => ?_, fun accepted => ?_⟩
    · rw [exec_taken takes, writeData_hands view index report (takeReport_refused (s := reportEmptied s) refused ..)]
      exact ⟨_, rfl, rfl, raise_pending_self .reportRefused (reportEmptied s), rfl, rfl, rfl, rfl, rfl, rfl,
        .setLink (.setLink (.raise _ (.setLink (.refl s))))⟩
    · obtain ⟨taken, is_taken, write⟩ := writeData_accepted (v := v) view index report accepted
      have reporting := (judgeReport_accepted accepted).1
      have emptied : taken.link.report = [] := is_taken ▸ reportTaken_report ..
      have restarted : taken.link.index = 0 := is_taken ▸ (reportTaken_deskKept ..).index
      have kept : Kept s taken := is_taken ▸ reportTaken_kept ..
      rw [exec_taken takes, write]
      refine ⟨_, rfl, rfl, emptied, restarted, kept.replica, fun image failed => ?_, fun failed => ?_,
        fun image failed on => ?_⟩
      · rw [image, failed] at is_taken
        exact reportTaken_imaging (t := taken) reporting _ _ is_taken
      · rw [failed] at is_taken
        exact reportTaken_failed (t := taken) reporting _ _ _ is_taken
      · rw [image, failed] at is_taken
        exact reportTaken_image (t := taken) reporting on _ _ is_taken

end Sys2Proof.Machine
end

