-- ==== Sys2Proof/Proofs/ColdStart.lean ====
section
/-! PROOFS. The cold values (R131, R132, R173): what reset and COLD_START leave, whatever the power inputs and the
waiting commands are, and the invariants they meet: O3 and O24. -/

namespace Sys2Proof.Machine

/-! ### The outputs and the queue -/

/-- R20: cold start empties every slot. -/
theorem cold_slot (pins : Pins) (pending : List Instr) (src : Source) :
    (State.cold pins pending).slot src = .empty := by
  cases src <;> rfl

/-- R129: with no wake pulse and no press, DESK_BUTTON is deasserted, whatever the level of PANEL_BUTTON. -/
theorem cold_deskButton (pins : Pins) (pending : List Instr) : (State.cold pins pending).deskButton = false := rfl

/-- R171: ATTN is deasserted in LOADING. -/
theorem attn_of_reading {s : State} (reading : s.loader.state = .reading) : s.attn = false := by
  simp [State.attn, reading]

/-! ### The laws of the pools (R29, R30, R102) -/

/-- R30: no units are held over a cold roster. -/
theorem holdSum_cold (n : Nat) (p : Pool) : holdSum (List.replicate n Entry.cold) p = 0 := by
  have held : Entry.cold.holds.get p = 0 := PerPool.get_all 0 p
  rw [holdSum, List.map_replicate, held, List.sum_replicate, smul_zero]

theorem Replica.cold_pool (p : Pool) : Replica.cold.pools.get p = PoolRecord.cold := PerPool.get_all PoolRecord.cold p

theorem Replica.inUseLaw_cold : Replica.cold.inUseLaw := by
  refine ⟨List.length_replicate, fun p => ?_⟩
  rw [Replica.cold_pool]
  exact (holdSum_cold Config.stations p).symm

theorem Replica.reservationLaw_cold : Replica.cold.reservationLaw := by
  refine fun p => .inl ?_
  rw [Replica.cold_pool]
  exact ⟨rfl, rfl⟩

/-- R173: a station in LOADING is not IN_SYNC, so its replica is not read. -/
theorem poolLaws_cold (pins : Pins) (pending : List Instr) : PoolLaws (State.cold pins pending) := nofun

theorem newestInSet_cold (pins : Pins) (pending : List Instr) : NewestInSet (State.cold pins pending) := nofun

/-! ### Reset and COLD_START -/

/-- Settles O3: reset is the cold state over deasserted power inputs, and a cold state meets every invariant. -/
theorem resetIsAfterColdStart : Obligations.ResetIsAfterColdStart :=
  ⟨rfl, rfl, rfl, cold_slot _ _, rfl, rfl, rfl, rfl, rfl, rfl, cold_deskButton _ _, rfl, rfl, rfl,
    attn_of_reading rfl, rfl, rfl, rfl, .cold _ _, .cold _ _, .cold _ _, attemptLaw_cold false false false [] 0,
    newestInSet_cold _ _, poolLaws_cold _ _, Replica.inUseLaw_cold, Replica.reservationLaw_cold⟩

/-- COLD_START answers the cold state over the levels read, with the queue and the counter of free values kept. -/
theorem exec_coldStart (powerGood supplyReq panelButton : Bool) (s : State) :
    exec (.coldStart powerGood supplyReq panelButton) s
      = .next ((State.cold ⟨supplyReq, powerGood, panelButton⟩ s.pending).setFreeCount s.freeCount) := rfl

/-- Settles O24: each block of the state answered is the block's cold value. -/
theorem coldStartTakesInitialValues : Obligations.ColdStartTakesInitialValues := by
  intro powerGood supplyReq panelButton s
  have slots := cold_slot ⟨supplyReq, powerGood, panelButton⟩ s.pending
  have noButton := cold_deskButton ⟨supplyReq, powerGood, panelButton⟩ s.pending
  refine ⟨_, exec_coldStart powerGood supplyReq panelButton s, ?_⟩
  exact ⟨rfl, rfl, rfl, rfl, rfl, rfl, rfl, slots, rfl, rfl, rfl, rfl, rfl, rfl, rfl, rfl, rfl, rfl, noButton,
    rfl, rfl, rfl, rfl, rfl, rfl, rfl, rfl, rfl, rfl, rfl, rfl, rfl, rfl, rfl, attn_of_reading rfl,
    rfl, rfl, rfl, rfl, rfl, rfl⟩

end Sys2Proof.Machine
end

