-- ==== Sys2Proof/Proofs/Configuration.lean ====
section
/-! PROOFS. How the Configuration Loader judges a block and what each verdict leaves (R173 to R177): O25. -/

namespace Sys2Proof.Machine

variable {s : State} {b : List Byte}

/-! ### The tests of a block (R174, R175) -/

theorem GateMode.ofCode_isSome (c : Byte) : (GateMode.ofCode c).isSome = true ↔ c.toNat ≤ 2 := by
  unfold GateMode.ofCode
  split_ifs with free any all
  · simp [free]
  · simp [any]
  · simp [all]
  · simp only [Option.isSome_none, Bool.false_eq_true, false_iff]
    bv_omega

theorem MarkKind.ofAwaitedCode_isSome (c : Byte) : (MarkKind.ofAwaitedCode c).isSome = true ↔ c.toNat ≤ 4 := by
  unfold MarkKind.ofAwaitedCode
  split_ifs with surgeEnd booted compare transferred imaged
  · simp [surgeEnd]
  · simp [booted]
  · simp [compare]
  · simp [transferred]
  · simp [imaged]
  · simp only [Option.isSome_none, Bool.false_eq_true, false_iff]
    bv_omega

/-- R174: the four lead bytes are bytes 11 to 14. -/
theorem leads_all_iff (P : Nat → Prop) [DecidablePred P] :
    [11, 12, 13, 14].all (fun i => decide (P i)) = true ↔ ∀ i, 11 ≤ i → i ≤ 14 → P i := by
  simp only [List.all_eq_true, decide_eq_true_eq]
  refine forall_congr' fun i => ?_
  have listed : i ∈ [11, 12, 13, 14] ↔ 11 ≤ i ∧ i ≤ 14 := by simp; omega
  rw [listed, and_imp]

/-- R175: the loader's verdict is the nine tests. -/
theorem blockValid_iff (b : List Byte) : blockValid b = true ↔ BlockAccepted b := by
  simp only [blockValid, Bool.and_eq_true, beq_iff_eq, decide_eq_true_eq, GateMode.ofCode_isSome,
    MarkKind.ofAwaitedCode_isSome, leads_all_iff fun i => (byteAt b i).toNat ≤ Config.stations, and_assoc]
  constructor
  · rintro ⟨marker, check, s1, s40, a08, a77, u1, u15, l1, l15, f1, f4, retry, mode, awaited, leads, compare⟩
    exact ⟨marker, check, ⟨s1, s40⟩, ⟨a08, a77⟩, ⟨u1, u15⟩, ⟨l1, l15⟩, ⟨f1, f4⟩, retry, mode, awaited, leads, compare⟩
  · rintro ⟨marker, check, ⟨s1, s40⟩, ⟨a08, a77⟩, ⟨u1, u15⟩, ⟨l1, l15⟩, ⟨f1, f4⟩, retry, mode, awaited, leads, compare⟩
    exact ⟨marker, check, s1, s40, a08, a77, u1, u15, l1, l15, f1, f4, retry, mode, awaited, leads, compare⟩

/-- R115, R174: an accepted block's gate mode and awaited kind are read from codes that name one. -/
theorem readSettings_gateMode (h : BlockAccepted b) :
    GateMode.ofCode (byteAt b 9) = some (readSettings b).gateMode := by
  obtain ⟨mode, named⟩ := Option.isSome_iff_exists.mp ((GateMode.ofCode_isSome _).mpr h.mode)
  simp [readSettings, named]

theorem readSettings_awaited (h : BlockAccepted b) :
    MarkKind.ofAwaitedCode (byteAt b 10) = some (readSettings b).awaited := by
  obtain ⟨kind, named⟩ := Option.isSome_iff_exists.mp ((MarkKind.ofAwaitedCode_isSome _).mpr h.awaited)
  simp [readSettings, named]

/-! ### The verdicts (R173, R175 to R177) -/

/-- R171: a pending error event asserts ATTN once LOADING has ended, whatever else EVENTS holds. -/
theorem attn_of_error (loaded : s.loader.state ≠ .reading) {e : Event} (error : 8 ≤ e.place)
    (pending : s.isPending e = true) : s.attn = true := by
  have shown : hi8 s.link.events ≠ 0 := by
    refine (ne_zero_iff_exists_bit _).mpr ⟨e.place - 8, ?_⟩
    have bound : e.place < 16 := BitVec.lt_of_getLsbD pending
    rw [hi8, BitVec.getLsbD_extractLsb', Nat.add_sub_cancel' error, Bool.and_eq_true]
    exact ⟨decide_eq_true (by omega), pending⟩
  simp only [State.attn, Bool.and_eq_true, Bool.or_eq_true, bne_iff_ne]
  exact ⟨loaded, .inl (.inl shown)⟩

theorem exec_configReadDone (reading : s.loader.state = .reading) (whole : b.length = 20) :
    exec (.configReadDone b) s = .next (if blockValid b then configValid b s else configFault s) :=
  congrArg Host.Outcome.next (if_pos ⟨reading, whole⟩)

theorem exec_configReadDone_accepted (reading : s.loader.state = .reading) (whole : b.length = 20)
    (accepted : BlockAccepted b) : exec (.configReadDone b) s = .next (configValid b s) := by
  rw [exec_configReadDone reading whole, if_pos ((blockValid_iff b).mpr accepted)]

theorem exec_configReadDone_refused (reading : s.loader.state = .reading) (whole : b.length = 20)
    (refused : ¬ BlockAccepted b) : exec (.configReadDone b) s = .next (configFault s) := by
  rw [exec_configReadDone reading whole, if_neg (mt (blockValid_iff b).mp refused)]

theorem exec_readLimitExpiry (reading : s.loader.state = .reading) (runs : s.loader.readLimit.isRunning = true) :
    exec .readLimitExpiry s = .next (configFault s) := congrArg Host.Outcome.next (if_pos ⟨reading, runs⟩)

/-- R173, R177: CONFIG_FAULT is an error event, so the verdict FAULT asserts ATTN. -/
theorem configFault_verdict (s : State) : FaultVerdict s (configFault s) where
  loader := ⟨rfl, rfl, rfl⟩
  membership := rfl
  event := raise_pending_self .configFault _
  attn := attn_of_error nofun (e := .configFault) (by decide) (raise_pending_self .configFault _)
  link := ⟨rfl, rfl, rfl⟩
  settings := rfl
  replica := rfl
  queue := rfl
  sequencer := rfl

/-- R48, R176: the verdict VALID hands the settings out, and the entry to JOINING writes the line and the Membership
Unit alone. -/
theorem configValid_eq (b : List Byte) (s : State) : ∃ x, configValid b s =
    { s with
      loader := { state := .valid, readLimit := .stopped, image := [] }
      cfg := readSettings b
      night := { s.night with awaitsSilence := true }
      link := { s.link with pointer := .data, address := byteAt b 4, clearMode := readClearMode b }
      rli := x
      member := { (clearJoiner s).member with state := .joining, askCount := 0 } }
    ∧ (s.slot .ask = .empty → x.queue.get .ask = fresh .ask) := by
  obtain ⟨x, joins, -, -, ask⟩ := joinEntry_eq { s with
    loader := { state := .valid, readLimit := .stopped, image := [] }
    cfg := readSettings b
    night := { s.night with awaitsSilence := true }
    link := { s.link with pointer := .data, address := byteAt b 4, clearMode := readClearMode b } }
  exact ⟨x, joins, ask⟩

/-- Settles O25: the verdict follows the nine tests (`blockValid_iff`), VALID hands the settings out and joins
(`configValid_eq`), and FAULT and the read limit's expiry leave the one state (`configFault_verdict`). -/
theorem configurationIsJudged : Obligations.ConfigurationIsJudged := by
  refine fun s reading => ⟨fun b whole => ⟨fun accepted => ?_, fun refused => ?_⟩, fun runs => ?_⟩
  · obtain ⟨x, valid, ask⟩ := configValid_eq b s
    rw [exec_configReadDone_accepted reading whole accepted, valid]
    exact ⟨_, rfl, rfl, rfl, rfl, rfl, rfl, ask, rfl, rfl, rfl, rfl, readSettings_gateMode accepted,
      readSettings_awaited accepted, rfl, rfl, rfl, rfl, rfl, rfl, rfl, rfl, rfl, rfl, rfl⟩
  · exact ⟨_, exec_configReadDone_refused reading whole refused, configFault_verdict s⟩
  · exact ⟨_, exec_readLimitExpiry reading runs, configFault_verdict s⟩

end Sys2Proof.Machine
end

