-- ==== Sys2Proof/Proofs/Series.lean ====
section
/-! PROOFS. What an install reads from the runs of a series is what the answerer laid out in them (R62, R180): O12. -/

namespace Sys2Proof.Machine

/-! ### Fields at an offset (R179) -/

@[simp] theorem byteOf_toNat {n : Nat} (h : n < 256) : (byteOf n).toNat = n := Nat.mod_eq_of_lt h

@[simp] theorem wordOf_toNat {n : Nat} (h : n < 65536) : (wordOf n).toNat = n := Nat.mod_eq_of_lt h

@[simp] theorem byteAt_cons_zero (b : Byte) (bytes : List Byte) : byteAt (b :: bytes) 0 = b := rfl

@[simp] theorem byteAt_cons_succ (b : Byte) (bytes : List Byte) (i : Nat) :
    byteAt (b :: bytes) (i + 1) = byteAt bytes i := rfl

/-- Past a first part, a byte is read from the second part. -/
theorem byteAt_append_add (front bytes : List Byte) (i : Nat) :
    byteAt (front ++ bytes) (front.length + i) = byteAt bytes i := by
  simp [byteAt, List.getD_eq_getElem?_getD, List.getElem?_append_right]

theorem wordAt_append_add (front bytes : List Byte) (i : Nat) :
    wordAt (front ++ bytes) (front.length + i) = wordAt bytes i := by
  simp only [wordAt, Nat.add_assoc, byteAt_append_add]

/-! ### The night record (R180, run 0) -/

/-- A flag laid into a status byte above the bits of a mask leaves those bits alone. -/
theorem or_flag_and {flag mask : Byte} (above : flag &&& mask = 0) (v : Byte) (on : Prop) [Decidable on] :
    (v ||| if on then flag else 0) &&& mask = v &&& mask := by
  rw [BitVec.and_or_distrib_right]
  split_ifs
  · rw [above]; exact BitVec.or_zero
  · rw [show (0 : Byte) &&& mask = 0 from BitVec.zero_and]; exact BitVec.or_zero

/-- Each bit of a status byte is a flag's where the flag has it. -/
theorem or_flag_getLsbD (v flag : Byte) (on : Prop) [Decidable on] (i : Nat) :
    (v ||| if on then flag else 0).getLsbD i = (v.getLsbD i || (decide on && flag.getLsbD i)) := by
  split_ifs with h <;> simp [h]

section

variable (n : NightRecord) (startDue deadlineDue graceDue : Bool)

/-- R180: bits 2..0 of the status byte are the code of the night state; the five flags lie above them. -/
theorem nightStatus_and_seven : nightStatus n startDue deadlineDue graceDue &&& 0x07 = n.state.code := by
  unfold nightStatus
  rw [or_flag_and rfl, or_flag_and rfl, or_flag_and rfl, or_flag_and rfl, or_flag_and rfl]
  cases n.state <;> rfl

/-- R180: bit 3 is held-from, set for RUNNING. -/
theorem nightStatus_three :
    (nightStatus n startDue deadlineDue graceDue).getLsbD 3 = decide (n.heldFrom = .running) := by
  have code : n.state.code.getLsbD 3 = false := by cases n.state <;> rfl
  simp only [nightStatus, or_flag_getLsbD, code]
  simp

/-- R180: bit 4 is the aborted flag. -/
theorem nightStatus_four : (nightStatus n startDue deadlineDue graceDue).getLsbD 4 = n.aborted := by
  have code : n.state.code.getLsbD 4 = false := by cases n.state <;> rfl
  simp only [nightStatus, or_flag_getLsbD, code]
  simp

/-- R180: a laid-out state has a code, so no free value is read for it. -/
theorem readNightState_nightStatus (free : Nat) :
    readNightState free (nightStatus n startDue deadlineDue graceDue) = n.state := by
  simp only [readNightState, nightStatus_and_seven, NightState.ofCode_code]

end

/-- R180: run 0 with the pool table's capacities is the night record. -/
theorem readNightRecord_run0Payload (free : Nat) (u : NightUnit) {n : NightRecord} {pools : PerPool PoolRecord}
    (capacities : n.capacities = pools.map PoolRecord.capacity) (start : n.start < 65536)
    (deadline : n.deadline < 65536) (grace : n.grace < 256) (relayer : n.relayer < 256) :
    readNightRecord free (run0Payload n u) pools = n := by
  have held : (if n.heldFrom = .running then HeldFrom.running else .pending) = n.heldFrom := by
    cases n.heldFrom <;> rfl
  have status : byteAt (run0Payload n u) 6 = nightStatus n u.startDue u.deadlineDue u.graceDue := rfl
  simp only [readNightRecord, status, readNightState_nightStatus, nightStatus_three, nightStatus_four,
    decide_eq_true_eq, held, ← capacities]
  simp [run0Payload, bytes16, bytes32, wordAt, start, deadline, grace, relayer]

/-! ### The pool table (R180, run 1) -/

/-- R29, R180: the amounts of a pool record fit its six bytes. -/
def PoolRecord.FitsLayout (p : PoolRecord) : Prop :=
  p.capacity < 256 ∧ p.inUse < 256 ∧ p.reserver < 256 ∧ p.reserved < 256

theorem readPool_append_length (front bytes : List Byte) :
    readPool (front ++ bytes) front.length = readPool bytes 0 := by
  have first := byteAt_append_add front bytes 0
  rw [Nat.add_zero] at first
  simp only [readPool, byteAt_append_add, wordAt_append_add, first, Nat.zero_add]

theorem readPool_poolBytes {p : PoolRecord} (fits : p.FitsLayout) (rest : List Byte) :
    readPool (poolBytes p ++ rest) 0 = p := by
  obtain ⟨capacity, inUse, reserver, reserved⟩ := fits
  simp [readPool, poolBytes, bytes16, wordAt, capacity, inUse, reserver, reserved]

/-- R180: run 1 is the pool table. -/
theorem readPools_poolTableBytes {t : PerPool PoolRecord} (fits : ∀ p, (t.get p).FitsLayout) :
    readPools (poolTableBytes t) = t := by
  have surge : readPool (poolTableBytes t) 0 = t.surge := by
    rw [poolTableBytes, List.append_assoc]
    exact readPool_poolBytes (fits .surge) _
  have load : readPool (poolTableBytes t) 6 = t.load := by
    rw [poolTableBytes, List.append_assoc]
    exact (readPool_append_length (poolBytes t.surge) _).trans (readPool_poolBytes (fits .load) _)
  have feed : readPool (poolTableBytes t) 12 = t.feed :=
    (readPool_append_length (poolBytes t.surge ++ poolBytes t.load) _).trans
      ((congrArg (readPool · 0) (List.append_nil _).symm).trans (readPool_poolBytes (fits .feed) []))
  rw [readPools, surge, load, feed]

/-! ### The roster (R180, runs 2 to 21) -/

/-- R32, R180: the amounts of a roster entry fit its eleven bytes. -/
def Entry.FitsLayout (e : Entry) : Prop := e.progress < 65536 ∧ e.attempt < 256 ∧ ∀ p, e.holds.get p < 256

@[simp] theorem readPresence_code (free station : Nat) (p : Presence) : readPresence free station p.code = p := by
  cases p <;> rfl

@[simp] theorem readRosterState_code (free station : Nat) (st : Option ShownState) :
    readRosterState free station (rosterStateCode st) = st := by
  cases st with
  | none => rfl
  | some st => cases st <;> rfl

theorem readEntry_append_length (free station : Nat) (front bytes : List Byte) :
    readEntry free station (front ++ bytes) front.length = readEntry free station bytes 0 := by
  simp only [readEntry, byteAt_append_add, wordAt_append_add, Nat.zero_add]

theorem readEntry_entryBytes (free station : Nat) {e : Entry} (fits : e.FitsLayout) (rest : List Byte) :
    readEntry free station (entryBytes station e ++ rest) 0 = e := by
  obtain ⟨progress, attempt, holds⟩ := fits
  have surge : e.holds.surge < 256 := holds .surge
  have load : e.holds.load < 256 := holds .load
  have feed : e.holds.feed < 256 := holds .feed
  simp [readEntry, entryBytes, bytes16, wordAt, progress, attempt, surge, load, feed]

/-- R180: a run from 2 on carries the entries of two successive stations. -/
theorem readRoster_runPayload (free : Nat) {snap : Snapshot} {k : Nat} (laid : 2 ≤ k)
    (first : (rosterEntry snap.roster (2 * k - 3)).FitsLayout)
    (second : (rosterEntry snap.roster (2 * k - 2)).FitsLayout) (runs : List (List Byte)) :
    readRoster free k (runPayload snap k :: runs) = rosterEntry snap.roster (2 * k - 3)
      :: rosterEntry snap.roster (2 * k - 2) :: readRoster free (k + 1) runs := by
  have next : readEntry free (2 * k - 2) (entryBytes (2 * k - 3) (rosterEntry snap.roster (2 * k - 3))
      ++ entryBytes (2 * k - 2) (rosterEntry snap.roster (2 * k - 2))) 11 = rosterEntry snap.roster (2 * k - 2) :=
    (readEntry_append_length _ _ (entryBytes (2 * k - 3) _) _).trans
      ((congrArg (readEntry _ _ · 0) (List.append_nil _).symm).trans (readEntry_entryBytes _ _ second []))
  rw [readRoster, runPayload, if_neg (by omega), readEntry_entryBytes _ _ first, next]

theorem rosterEntry_succ {roster : List Entry} {i : Nat} (h : i < roster.length) :
    rosterEntry roster (i + 1) = roster[i] := by
  simp [rosterEntry, h]

/-- R57, R62: the runs after the first `2 + j` carry the entries after the first `2 * j`, two a run, to the roster's
end. -/
theorem readRoster_runs (free : Nat) {snap : Snapshot} (fits : ∀ e ∈ snap.roster, e.FitsLayout) (count j : Nat)
    (whole : 2 * j + 2 * count = snap.roster.length) :
    readRoster free (j + 2) ((List.range' (j + 2) count).map (runPayload snap)) = snap.roster.drop (2 * j) := by
  induction count generalizing j with
  | zero => rw [List.drop_of_length_le (by omega)]; rfl
  | succ count ih =>
    have first : rosterEntry snap.roster (2 * (j + 2) - 3) = snap.roster[2 * j] :=
      rosterEntry_succ (i := 2 * j) (by omega)
    have second : rosterEntry snap.roster (2 * (j + 2) - 2) = snap.roster[2 * j + 1] :=
      rosterEntry_succ (i := 2 * j + 1) (by omega)
    rw [List.range'_succ, List.map_cons, readRoster_runPayload free (by omega)
      (first ▸ fits _ (List.getElem_mem _)) (second ▸ fits _ (List.getElem_mem _)), first, second,
      ih (j + 1) (by omega), List.drop_eq_getElem_cons (i := 2 * j) (by omega),
      List.drop_eq_getElem_cons (i := 2 * j + 1) (by omega)]
    rfl

/-! ### The series (R62) -/

/-- Settles O12: run 0 is the night record, run 1 the pool table, and runs 2 to 21 the roster's forty entries. -/
theorem seriesCarriesTheReplica : Obligations.SeriesCarriesTheReplica := by
  intro free r u capacities start deadline grace relayer pools forty entries
  have table : readPools (poolTableBytes r.pools) = r.pools := readPools_poolTableBytes pools
  have night := readNightRecord_run0Payload free u capacities start deadline grace relayer
  have roster : readRoster free 2 ((List.range' 2 20).map (runPayload ⟨r.pools, r.roster⟩)) = r.roster :=
    readRoster_runs free entries 20 0 forty.symm
  have runs : ((List.range 21).map fun k => runPayload ⟨r.pools, r.roster⟩ (k + 1))
      = poolTableBytes r.pools :: (List.range' 2 20).map (runPayload ⟨r.pools, r.roster⟩) := rfl
  rw [snapshotReplica, runs, List.headD_cons, List.drop_one, List.tail_cons, table, night, roster]

end Sys2Proof.Machine
end

/-! PROOFS. The step on a queue that holds a command: O1. Every command answers a next state and leaves the queue of
waiting commands: O2, from what each command can do (`exec_effect`) and what the delivery of a frame does. -/

namespace Sys2Proof.Machine

variable {s t : State} {c : Instr}

/-- Settles O1: by the arm of `step` for a queue that holds a command. -/
theorem stepRunsFrontCommand : Obligations.StepRunsFrontCommand := by
  intro c rest s front
  simp only [step, front]

/-! ### The queue of waiting commands over a replay (R45, R62) -/

@[simp] theorem runsChange_pending (answerer n : Nat) (s : State) : (runsChange answerer n s).pending = s.pending := rfl

@[simp] theorem replayFrame_pending (e : BufferEntry) (s : State) : (replayFrame e s).pending = s.pending :=
  (Carried.applyParts e.own e.sender e.body e.age s).pending

@[simp] theorem replay_pending (answerer : Nat) (buffer : List BufferEntry) : ∀ (done : Nat) (s : State),
    (replay answerer done buffer s).pending = s.pending := by
  induction buffer with
  | nil => exact fun done s => runsChange_pending answerer (21 - done) s
  | cons e rest ih =>
    exact fun done s => (ih _ _).trans ((replayFrame_pending e _).trans (runsChange_pending answerer _ s))

@[simp] theorem enterSync_pending (s : State) : (enterSync s).pending = s.pending := (Kept.enterSync (.refl s)).pending

@[simp] theorem countsFromRun0_pending (run0 : List Byte) (s : State) :
    (countsFromRun0 run0 s).pending = s.pending := (Kept.countsFromRun0 run0 (.refl s)).pending

@[simp] theorem install_pending (a : Adopted) (s : State) : (install a s).pending = s.pending := by
  simp [install, recordInstall]

/-! ### The queue of waiting commands over a delivery (R14, R46) -/

@[simp] theorem collectRun_pending (a : Adopted) (sender k : Nat) (payload : List Byte) (s : State) :
    (collectRun a sender k payload s).pending = s.pending := by
  unfold collectRun
  split_ifs
  · exact install_pending _ s
  · exact (Kept.storeRun a payload (.refl s)).pending
  · exact (Kept.abandon (.refl s)).pending

@[simp] theorem collectingFrame_pending (own : Bool) (sender : Nat) (b : Body) (s : State) :
    (collectingFrame own sender b s).pending = s.pending := by
  have adopted (asker : Byte) (payload : List Byte) : (adopt sender asker payload s).pending = s.pending :=
    (Kept.adopt sender asker payload (.refl s)).pending
  unfold collectingFrame
  split
  · split_ifs
    · exact adopted _ _
    · exact collectRun_pending _ _ _ _ s
  · split_ifs
    · exact adopted _ _
    · exact (Kept.abandon (.refl s)).pending
  · exact (Kept.bufferFrame _ own sender _ (.refl s)).pending
  · rfl

@[simp] theorem handOver_pending (own : Bool) (sender : Nat) (b : Body) (s : State) :
    (handOver own sender b s).pending = s.pending := by
  unfold handOver
  split
  case h_5 => exact (Kept.joiningFrame own sender b (.refl s)).pending
  case h_6 => exact collectingFrame_pending own sender b s
  case h_7 => exact (Carried.applyLive own sender b s).pending
  all_goals rfl

@[simp] theorem countDelivery_pending (own : Bool) (sender : Nat) (s : State) :
    (countDelivery own sender s).pending = s.pending := (Carried.countDelivery own sender s).pending

theorem MayClear.pending (k : MayClear s t) : t.pending = s.pending :=
  k.elim (·.pending) (·.carried.pending)

theorem Delivery.pending (d : Delivery s t) : t.pending = s.pending := by
  cases d with
  | mayClear k => exact k.pending
  | handed own n b _ k =>
    exact k.pending.trans ((handOver_pending own n b _).trans (countDelivery_pending own n s))

/-! ### Every command -/

/-- No command touches the queue: it is the world's (log 1). -/
theorem exec_pending (run : exec c s = .next t) : t.pending = s.pending := by
  cases exec_effect run with
  | carried k => exact k.pending
  | cleared _ k => exact k.carried.pending
  | aged _ k => exact k.pending
  | configured _ _ _ k _ => exact k.pending
  | driven _ _ k => exact k.pending
  | cold _ _ _ _ ht => subst ht; rfl
  | started _ ht => subst ht; exact (Kept.startAttempt (.refl s)).pending
  | delivered f _ ht => subst ht; exact (frameEndsDelivered_cases f s).pending

/-- No command ends in a fault or a refusal. -/
theorem exec_answers (c : Instr) (s : State) : ∃ t, exec c s = .next t := by
  obtain ⟨t, run, -⟩ := exec_conducted s c
  exact ⟨t, run⟩

/-- Settles O2: every command answers a next state, and what it does to the state leaves the queue. -/
theorem everyCommandAnswersNext : Obligations.EveryCommandAnswersNext := by
  intro c s
  obtain ⟨t, run⟩ := exec_answers c s
  exact ⟨t, run, exec_pending run⟩

end Sys2Proof.Machine

/-! PROOFS. How the sequencer is told of a NIGHT frame, takes a night up, skips it, and looks for a newer one at a
terminal state (R36, R41, R133 to R136, R145, R148): O53 and O54. -/

namespace Sys2Proof.Machine

variable {z s t x : State} {q : Sequencer} {r : Replica} {n : NightRecord} {g : List Group} {m : Nat} {ident : Word16}
  {a : NightAction} {f st : NightState}

/-! ### Grants that the sequencer does not act on (R138, R140, R149) -/

/-- R149: neither CLAIMING nor BOOTING, where the sequencer waits for no grant. -/
def State.AwaitsNoGrant (s : State) : Prop := s.seq.state ≠ .claiming ∧ s.seq.state ≠ .booting

theorem State.AwaitsNoGrant.beside (h : s.AwaitsNoGrant) (same : t.besideEngine = s.besideEngine) :
    t.AwaitsNoGrant := by
  unfold AwaitsNoGrant
  rwa [seq_of_besideEngine same]

theorem toldGranted_unawaited (p : Pool) (h : s.AwaitsNoGrant) : toldGranted p s = s := by
  obtain ⟨claiming, booting⟩ := h
  cases p with
  | load => exact if_neg claiming
  | surge => exact if_neg fun ready => claiming (wakeReady_spec ready).2.1
  | feed => exact if_neg booting

theorem remakeDeferred_unawaited (h : s.AwaitsNoGrant) : (remakeDeferred s).besideEngine = s.besideEngine := by
  unfold remakeDeferred
  split
  · rfl
  · rename_i p units _
    have made : (makeRequest p units (s.setClaim { s.claim with deferred := none })).1.besideEngine = s.besideEngine :=
      makeRequest_besideEngine _ _ _
    dsimp only
    rw [toldGranted_unawaited p (h.beside made), ite_self, made]

theorem tellGrant_unawaited (h : s.AwaitsNoGrant) : (tellGrant s).besideEngine = s.besideEngine := by
  unfold tellGrant
  split
  · rfl
  · split
    · exact remakeDeferred_unawaited h
    · rw [toldGranted_unawaited _ h]

theorem rereadTold_unawaited (h : s.AwaitsNoGrant) : (rereadTold s).besideEngine = s.besideEngine := by
  have read := reread_besideEngine s
  unfold rereadTold
  dsimp only
  split
  · exact (tellGrant_unawaited (h.beside read)).trans read
  · exact read

theorem rereadParked_unawaited (s0 : State) (h : s.AwaitsNoGrant) :
    (rereadParked s0 s).besideEngine = s.besideEngine := by
  unfold rereadParked
  split
  · split
    · exact rereadTold_unawaited h
    · rfl
  · rfl

/-! ### What a NIGHT frame leaves for the sequencer's notice (R36, R41) -/

theorem newer_self (ident : Word16) : newer ident ident = false := Bool.eq_false_iff.mpr fun h => newer_ne h rfl

theorem Kept.shownHold (k : Kept s t) (p : Pool) : t.shownHold p = s.shownHold p := by
  unfold State.shownHold State.ownEntry
  rw [k.replica, k.cfg]

/-- R41, R85: the station as the sequencer is told of a change of the night record. -/
def toldOfNight (m : Nat) (b : Body) (s : State) : State :=
  refreshRun0 (workStep (rereadParked s (applyParts false m b 0 s)))

/-- R119, R109: what follows the sequencer's notice: the gate, and the silence watch. -/
def gateAnswers (r : Replica) (s : State) : State :=
  judgeWatch (if gateConcerned r s then evaluateGate s else s)

theorem toldOfNight_kept (m : Nat) (b : Body) (s : State) :
    Kept (s.setReplica (applyFrame s.replica m b).1) (toldOfNight m b s) :=
  .refreshRun0 (.workStep (.rereadParked s (.engineNotice _ _ _ _ (.ite (.nightApplied _ _ (.refl _)) (.refl _)))))

/-- R41: before the notice nothing of an application of a NIGHT frame reaches the sequencer, where it awaits no
grant. -/
theorem toldOfNight_seq (h : s.AwaitsNoGrant) (action fromState toState : Byte) :
    (toldOfNight m (.night ident action fromState toState) s).seq = s.seq := by
  have noticed (v : Verdict) (y : State) :
      (engineNotice s.replica false (.night ident action fromState toState) v y).besideEngine = y.besideEngine := by
    change (if v = .made then nightClearedReservation s.replica y else y).besideEngine = _
    simp
  have applied : (applyParts false m (.night ident action fromState toState) 0 s).seq = s.seq := by
    refine (seq_of_besideEngine (noticed _ _)).trans (seq_of_bringUp ?_)
    simp
  have awaits : (applyParts false m (.night ident action fromState toState) 0 s).AwaitsNoGrant := by
    unfold State.AwaitsNoGrant
    rwa [applied]
  refine (seq_of_besideEngine ?_).trans applied
  rw [toldOfNight, refreshRun0_besideEngine, workStep_besideEngine, rereadParked_unawaited _ awaits]

/-- R80: what the sequencer is told of a NIGHT frame that moved the night. -/
structure NightTold (a : NightAction) (st : NightState) (s x : State) : Prop where
  seq : x.seq = s.seq
  night : x.replica.night = (writeNight s.replica a st).night
  capacity : ∀ p, (x.replica.pools.get p).capacity = (s.replica.pools.get p).capacity
  held : ∀ p, x.shownHold p = s.shownHold p
  cfg : x.cfg = s.cfg
  pins : x.pins = s.pins

/-- R80: a NIGHT frame that is made moves the night, and no capacity or hold. -/
theorem nightTold_of_made (awaits : s.AwaitsNoGrant) {action fromState toState : Byte}
    (made : nightMade s.replica.night ident action fromState toState = some (a, st)) :
    NightTold a st s (toldOfNight m (.night ident action fromState toState) (heardCounted m s)) := by
  have k := toldOfNight_kept m (.night ident action fromState toState) (heardCounted m s)
  have written : (toldOfNight m (.night ident action fromState toState) (heardCounted m s)).replica
      = commonChange (writeNight s.replica a st) m :=
    k.replica.trans (congrArg Prod.fst (applyFrame_night_made made))
  refine ⟨toldOfNight_seq (s := heardCounted m s) awaits _ _ _, ?_, fun p => ?_, fun p => ?_, k.cfg, k.pins⟩
  · rw [written]
    rfl
  · rw [written]
    refine (congrArg PoolRecord.capacity (writeNight_pool s.replica a st p)).trans ?_
    split
    · rw [clearReservation_eq]
    · rfl
  · unfold State.shownHold State.ownEntry
    rw [written, k.cfg]
    exact congrArg (PerPool.get · p) (commonChange_entry_field Entry.holds ..)

theorem aborts_code (a : NightAction) (ident : Word16) (fromState toState : Byte) :
    (Body.night ident a.code fromState toState).aborts = (a == .abort) := by cases a <;> rfl

/-- R41, R46, R79: a NIGHT frame of a row of the table that names the night as it stands moves it; the sequencer is
told, and then the gate. -/
theorem exec_nightFrame (frames : s.framing = true) (sync : s.InSync) (awaits : s.AwaitsNoGrant)
    (whole : receive g = .whole m (.night ident a.code f.code st.code)) (current : ident = s.replica.night.id)
    (is_from : f = s.replica.night.state) (row : nightRow a f st = true) (advances : a ≠ .resume) :
    ∃ x, NightTold a st s x
      ∧ exec (.frameDelivered (.heard g)) s = .next (gateAnswers s.replica (nightNotice (a == .abort) x)) := by
  have made : nightMade s.replica.night ident a.code f.code st.code = some (a, st) := by
    rw [nightMade_codes, if_pos ⟨current, is_from, row, fun resumes => absurd resumes advances⟩]
  have verdict : (applyFrame (heardCounted m s).replica m (.night ident a.code f.code st.code)).2 = .made :=
    congrArg Prod.snd (applyFrame_night_made made)
  refine ⟨_, nightTold_of_made (m := m) awaits made, ?_⟩
  rw [exec_heardDelivered frames whole, heardDelivered, countDelivery_heard, handOver_inSync (by exact sync),
    applyLive, verdict, ← aborts_code a ident f.code st.code]
  rfl

/-! ### What follows the notice (R109, R119) -/

@[simp] theorem judgeWatch_hand (s : State) : (judgeWatch s).hand = s.hand := by
  unfold judgeWatch
  split
  · rfl
  · split <;> simp

/-- R119: outside GATED the gate is not read. -/
theorem gateAnswers_elsewhere (elsewhere : s.seq.state ≠ .gated) : gateAnswers r s = judgeWatch s := by
  rw [gateAnswers, evaluateGate_not_gated elsewhere, ite_self]

theorem gateAnswers_still (elsewhere : s.seq.state ≠ .gated) : (gateAnswers r s).besideEngine = s.besideEngine := by
  rw [gateAnswers_elsewhere elsewhere, judgeWatch_besideEngine]

theorem Kept.gateAnswers (k : Kept z s) (r : Replica) : Kept z (gateAnswers r s) :=
  .judgeWatch (.ite (.evaluateGate k) k)

theorem isPending_of_link (h : t.link = s.link) (e : Event) : t.isPending e = s.isPending e :=
  congrArg (fun l : LinkPort => l.events.getLsbD e.place) h

theorem isPending_of_besideEngine (h : t.besideEngine = s.besideEngine) (e : Event) :
    t.isPending e = s.isPending e := isPending_of_link (congrArg State.link h :) e

/-! ### Taking up a night (R133, R135, R136) -/

/-- R133, R135, R136: the sequencer that takes up a night. -/
def Sequencer.taking (n : NightRecord) (q : Sequencer) : Sequencer :=
  { q with
    night := n.id, image := n.image, newerNight := false, attempt := 0, progress := 0
    standing := standingOf n n.id .running, outcome := OutcomeRecord.fresh n.id, swallowed := 0 }

/-- R154: the sequencer in a terminal state, with its outcome. -/
def Sequencer.ended (st : SeqState) (o : NightOutcome) (skip : Option SkipReason) (q : Sequencer) : Sequencer :=
  { q with state := st, outcome := { q.outcome with outcome := o, skip := skip, finalProgress := q.progress } }

@[simp] theorem takeUp_seq (s : State) : (takeUp s).seq = s.seq.taking s.replica.night := emittedFor_seq _ (s.setSeq _)

@[simp] theorem emittedFor_link (night : Word16) (s : State) : (emittedFor night s).link = s.link := by
  unfold emittedFor
  split_ifs <;> rfl

@[simp] theorem gatedReady_link (s : State) : (gatedReady s).link = s.link := by
  unfold gatedReady gateReady
  split_ifs
  · exact emittedFor_link _ s
  · exact emittedFor_link _ s

@[simp] theorem takeUp_link (s : State) : (takeUp s).link = s.link := emittedFor_link _ (s.setSeq _)

@[simp] theorem enterState_link (st : SeqState) (s : State) : (enterState st s).link = s.link :=
  (congrArg State.link (enterState_besideEngine st s) :)

/-- R133, R135, R136: a night taken up and ended at once. -/
theorem takeUpEnded_seq (k : MarkKind) (st : SeqState) (o : NightOutcome) (skip : Option SkipReason) (s : State) :
    (setOutcome o skip (enterWith k st (takeUp s))).seq = (s.seq.taking s.replica.night).ended st o skip := by
  rw [setOutcome_seq, enterWith_seq, takeUp_seq, Sequencer.ended]

theorem takeUpEnded_ready (k : MarkKind) (st : SeqState) {o : NightOutcome} (skip : Option SkipReason) (s : State)
    (set : o ≠ .unset) : (setOutcome o skip (enterWith k st (takeUp s))).isPending .outcomeReady = true := by
  refine setOutcome_ready skip ?_ set
  rw [enterWith_seq, takeUp_seq]
  rfl

theorem takeUpSkipped_seq (reason : SkipReason) (s : State) : (takeUpSkipped reason s).seq =
    (s.seq.taking s.replica.night).ended .skipped .skipped (some reason) := takeUpEnded_seq ..

theorem takeUpSkipped_ready (reason : SkipReason) (s : State) :
    (takeUpSkipped reason s).isPending .outcomeReady = true := takeUpEnded_ready _ _ _ s nofun

theorem takeUpLocal_seq (s : State) : (takeUpLocal s).seq =
    (s.seq.taking s.replica.night).ended .localUse .localUse none := takeUpEnded_seq ..

theorem takeUpLocal_ready (s : State) : (takeUpLocal s).isPending .outcomeReady = true :=
  takeUpEnded_ready _ _ _ s nofun

/-- R133: a cost exceeds its pool. -/
theorem costExceeds_iff : s.costExceeds = true ↔ ∃ p, (s.replica.pools.get p).capacity < s.cfg.cost.get p := by
  simp only [State.costExceeds, Bool.or_eq_true, decide_eq_true_eq]
  refine ⟨?_, fun ⟨p, exceeds⟩ => ?_⟩
  · rintro ((surge | load) | feed)
    · exact ⟨.surge, surge⟩
    · exact ⟨.load, load⟩
    · exact ⟨.feed, feed⟩
  · cases p with
    | surge => exact .inl (.inl exceeds)
    | load => exact .inl (.inr exceeds)
    | feed => exact .inr exceeds

theorem costExceeds_eq_false_iff :
    s.costExceeds = false ↔ ∀ p, s.cfg.cost.get p ≤ (s.replica.pools.get p).capacity := by
  rw [← Bool.not_eq_true, costExceeds_iff]
  simp only [not_exists, Nat.not_lt]

/-! #### The lines of R133 -/

theorem takeUpRunning_absent (absent : s.cfg.participates = false) :
    takeUpRunning s = takeUpSkipped .notParticipating s := if_pos absent

theorem takeUpRunning_exceeds (takes_part : s.cfg.participates = true) (exceeds : s.costExceeds = true) :
    takeUpRunning s = takeUpSkipped .costExceeds s := by
  rw [takeUpRunning, if_neg (by simp [takes_part]), if_pos exceeds]

theorem takeUpRunning_powered (takes_part : s.cfg.participates = true) (fits : s.costExceeds = false)
    (on : s.pins.powerGood = true) : takeUpRunning s = takeUpLocal s := by
  rw [takeUpRunning, if_neg (by simp [takes_part]), if_neg (by simp [fits]), if_pos on]

theorem takeUpRunning_waits (takes_part : s.cfg.participates = true) (fits : s.costExceeds = false)
    (off : s.pins.powerGood = false) : takeUpRunning s = enterGated (takeUp s) := by
  rw [takeUpRunning, if_neg (by simp [takes_part]), if_neg (by simp [fits]), if_neg (by simp [off])]

/-! ### From GATED towards the wake (R116, R119, R137, R138) -/

/-- 7.2: GATED, and where the gate, the grants and the wake lead from there. -/
def SeqState.towardsWake : SeqState → Bool
  | .gated | .claiming | .awaitGood => true
  | _ => false

/-- The sequencer without what a wake pulse sets. -/
def Sequencer.beforeWake (q : Sequencer) : Sequencer :=
  { q with
    state := .gated, wake := .stopped, permit := false, attempt := 0, outcome := { q.outcome with used := 0 }
    progress := 0, contact := false, finish := .done, go := false, transferDone := false, good := .stopped }

/-- What a station keeps on its way from GATED to the wake pulse. -/
structure TowardsWake (z t : State) : Prop where
  seq : t.seq.beforeWake = z.seq.beforeWake
  progress : t.seq.progress ≤ z.seq.progress
  events : t.link.events = z.link.events
  state : t.seq.state.towardsWake = true

namespace TowardsWake

theorem refl (gated : s.seq.state = .gated) : TowardsWake s s := ⟨rfl, le_rfl, rfl, by rw [gated]; rfl⟩

theorem ite {c : Prop} [Decidable c] (hs : TowardsWake z s) (ht : TowardsWake z t) :
    TowardsWake z (if c then s else t) := by
  split <;> assumption

/-- An operation of the Claim Engine, the queue or the mark source. -/
theorem beside (h : TowardsWake z s) (same : t.besideEngine = s.besideEngine := by simp) : TowardsWake z t := by
  have seq := seq_of_besideEngine same
  have link : t.link = s.link := (congrArg State.link same :)
  exact ⟨seq ▸ h.seq, seq ▸ h.progress, link ▸ h.events, seq ▸ h.state⟩

theorem wakeStart (h : TowardsWake z s) : TowardsWake z (wakeStart s) where
  seq := (congrArg Sequencer.beforeWake (stateMark_seq _)).trans h.seq
  progress := (congrArg Sequencer.progress (stateMark_seq _)).le.trans (Nat.zero_le _)
  events := (congrArg (·.link.events) (stateMark_besideEngine _) :).trans h.events
  state := congrArg (·.state.towardsWake) (stateMark_seq _)

theorem wakeTest (h : TowardsWake z s) : TowardsWake z (wakeTest s) := .ite h.wakeStart h

theorem requestSurge (h : TowardsWake z s) : TowardsWake z (requestSurge s) := wakeTest h.beside

theorem loadGranted (h : TowardsWake z s) : TowardsWake z (loadGranted s) := .ite h.requestSurge h

theorem requestLoad (h : TowardsWake z s) : TowardsWake z (requestLoad s) := .ite (loadGranted h.beside) h.beside

theorem enterClaiming (h : TowardsWake z s) : TowardsWake z (enterClaiming s) := by
  have claiming : TowardsWake z (enterState .claiming s) :=
    beside (s := toState .claiming s) ⟨h.seq, h.progress, h.events, rfl⟩ (enterState_besideEngine _ s)
  exact .ite claiming.requestLoad claiming

theorem evaluateGate (h : TowardsWake z s) : TowardsWake z (evaluateGate s) :=
  .ite (enterClaiming ⟨h.seq, h.progress, h.events, h.state⟩) h

theorem readGate (h : TowardsWake z s) : TowardsWake z (readGate s) := .ite h.enterClaiming h

theorem gateAnswers (h : TowardsWake z s) (r : Replica) : TowardsWake z (gateAnswers r s) :=
  (ite h.evaluateGate h : TowardsWake z (if gateConcerned r s then _ else s)).beside (judgeWatch_besideEngine _)

end TowardsWake

/-- R116, R137: from the entry to GATED on. -/
theorem enterGated_towardsWake (s : State) : TowardsWake (enterState .gated (gatedReady s)) (enterGated s) :=
  (TowardsWake.refl (by rw [enterState_seq])).evaluateGate.readGate

/-! #### With nothing shown held in LOAD -/

/-- R119, R137: the sequencer as it was, in GATED or CLAIMING. -/
def State.Waits (q : Sequencer) (s : State) : Prop :=
  s.seq = { q with state := .gated } ∨ s.seq = { q with state := .claiming }

theorem State.Waits.evaluateGate (h : s.Waits q) (none_held : s.shownHold .load = 0) : (evaluateGate s).Waits q := by
  by_cases opens : s.gateOpens = true
  case neg => rwa [Machine.evaluateGate, if_neg opens]
  case pos =>
    have seq : (Machine.evaluateGate s).seq = { s.seq with state := .claiming } :=
      seq_of_besideEngine (evaluateGate_opens opens none_held)
    refine .inr (seq.trans ?_)
    obtain gated | claiming := h
    · rw [gated]
    · rw [claiming]

theorem State.Waits.readGate (h : s.Waits q) (none_held : s.shownHold .load = 0) : (readGate s).Waits q := by
  unfold Machine.readGate
  split
  case isFalse => exact h
  case isTrue =>
    have seq : (enterClaiming s).seq = { s.seq with state := .claiming } :=
      seq_of_besideEngine (enterClaiming_besideEngine none_held)
    refine .inr (seq.trans ?_)
    obtain gated | claiming := h
    · rw [gated]
    · rw [claiming]

theorem State.Waits.gateAnswers (h : s.Waits q) (none_held : s.shownHold .load = 0) : (gateAnswers r s).Waits q := by
  have answered : (if gateConcerned r s then Machine.evaluateGate s else s).Waits q := by
    split
    · exact h.evaluateGate none_held
    · exact h
  have seq := seq_of_besideEngine (judgeWatch_besideEngine (if gateConcerned r s then Machine.evaluateGate s else s))
  unfold State.Waits
  rwa [Machine.gateAnswers, seq]

/-- R119, R137: the gate may open at once, but no LOAD is granted. -/
theorem enterGated_waits (none_held : s.shownHold .load = 0) : (enterGated s).Waits s.seq := by
  have k : Kept s (enterState .gated (gatedReady s)) := .enterState _ (.gatedReady (.refl s))
  have entered : (enterState .gated (gatedReady s)).Waits s.seq :=
    .inl (by rw [enterState_seq, gatedReady_seq])
  exact (entered.evaluateGate ((k.shownHold .load).trans none_held)).readGate
    ((k.evaluateGate.shownHold .load).trans none_held)

/-! ### A night that has been taken up (R133, R135, R136, R154) -/

/-- What is known of a station that has taken up a night, whatever state it took it up in. -/
structure TookUp (n : NightRecord) (t : State) : Prop where
  night : t.seq.night = n.id
  image : t.seq.image = n.image
  newerNight : t.seq.newerNight = false
  progress : t.seq.progress = 0
  swallowed : t.seq.swallowed = 0
  standing : t.seq.standing = standingOf n n.id .running
  record : t.seq.outcome.night = n.id
  causes : t.seq.outcome.causes = []
  late : t.seq.outcome.late = false

namespace TookUp

theorem of_ended {st : SeqState} {o : NightOutcome} {skip : Option SkipReason}
    (seq : t.seq = (q.taking n).ended st o skip) : TookUp n t := by
  constructor <;> rw [seq] <;> rfl

theorem towardsWake (h : TookUp n s) (way : TowardsWake s t) : TookUp n t where
  night := (congrArg Sequencer.night way.seq :).trans h.night
  image := (congrArg Sequencer.image way.seq :).trans h.image
  newerNight := (congrArg Sequencer.newerNight way.seq :).trans h.newerNight
  progress := Nat.le_zero.mp (way.progress.trans h.progress.le)
  swallowed := (congrArg Sequencer.swallowed way.seq :).trans h.swallowed
  standing := (congrArg Sequencer.standing way.seq :).trans h.standing
  record := (congrArg (·.outcome.night) way.seq :).trans h.record
  causes := (congrArg (·.outcome.causes) way.seq :).trans h.causes
  late := (congrArg (·.outcome.late) way.seq :).trans h.late

theorem enterGated (s : State) : TookUp s.replica.night (enterGated (takeUp s)) := by
  have gated : TookUp s.replica.night (enterState .gated (gatedReady (takeUp s))) := by
    constructor <;> rw [enterState_seq, gatedReady_seq, takeUp_seq] <;> rfl
  exact gated.towardsWake (enterGated_towardsWake (takeUp s))

theorem takeUpRunning (s : State) : TookUp s.replica.night (takeUpRunning s) := by
  unfold Machine.takeUpRunning
  split_ifs
  · exact .of_ended (takeUpSkipped_seq _ s)
  · exact .of_ended (takeUpSkipped_seq _ s)
  · exact .of_ended (takeUpLocal_seq s)
  · exact .enterGated s

theorem gateAnswers (h : TookUp n s) (r : Replica) : TookUp n (gateAnswers r s) := by
  by_cases gated : s.seq.state = .gated
  case pos => exact h.towardsWake ((TowardsWake.refl gated).gateAnswers r)
  case neg =>
    have seq := seq_of_besideEngine (gateAnswers_still (r := r) gated)
    constructor <;> rw [seq]
    exacts [h.night, h.image, h.newerNight, h.progress, h.swallowed, h.standing, h.record, h.causes, h.late]

end TookUp

/-- R133, R135, R136, R154: what is known of a station that took up a night and skipped it. -/
structure SkippedFor (reason : SkipReason) (id : Word16) (t : State) : Prop where
  state : t.seq.state = .skipped
  night : t.seq.night = id
  newerNight : t.seq.newerNight = false
  attempt : t.seq.attempt = 0
  record : t.seq.outcome.night = id
  outcome : t.seq.outcome.outcome = .skipped
  skip : t.seq.outcome.skip = some reason
  ready : t.isPending .outcomeReady = true

theorem takeUpSkipped_skippedFor (reason : SkipReason) (s : State) :
    SkippedFor reason s.replica.night.id (takeUpSkipped reason s) := by
  have ready := takeUpSkipped_ready reason s
  have seq := takeUpSkipped_seq reason s
  constructor
  case ready => exact ready
  all_goals rw [seq]
  all_goals rfl

theorem SkippedFor.gateAnswers {reason : SkipReason} (h : SkippedFor reason ident s) (r : Replica) :
    SkippedFor reason ident (gateAnswers r s) := by
  have still := gateAnswers_still (r := r) (s := s) (by rw [h.state]; exact nofun)
  have ready := (isPending_of_besideEngine still .outcomeReady).trans h.ready
  have seq := seq_of_besideEngine still
  constructor
  case ready => exact ready
  all_goals rw [seq]
  exacts [h.state, h.night, h.newerNight, h.attempt, h.record, h.outcome, h.skip]

/-! ### The notice at an idle station (R133, R135) -/

/-- R133: STANDBY, or terminal for an older night. -/
theorem idle_iff : s.idle = true ↔
    s.seq.state = .standby ∨ (s.seq.state.terminal = true ∧ newer s.replica.night.id s.seq.night = true) := by
  simp [State.idle]

theorem awaitsNoGrant_of_idle (idle : s.idle = true) : s.AwaitsNoGrant := by
  have rests := (idle_iff.mp idle).imp_right And.left
  constructor <;> intro busy <;> rw [busy] at rests <;> exact absurd rests (by decide)

theorem nightNotice_running (aborted : Bool) (idle : s.idle = true) (running : s.replica.night.state = .running) :
    nightNotice aborted s = takeUpRunning s := by
  rw [nightNotice, if_pos idle, running]

theorem nightNotice_closing (aborted : Bool) (idle : s.idle = true) (closing : s.replica.night.state = .closing) :
    nightNotice aborted s = takeUpClosed .closed s := by
  rw [nightNotice, if_pos idle, closing]

theorem nightNotice_aborted (idle : s.idle = true) (ended : s.replica.night.state = .ended) :
    nightNotice true s = takeUpClosed .aborted s := by
  rw [nightNotice, if_pos idle, ended]
  rfl

theorem takeUpClosed_eq (reason : SkipReason) (s : State) : takeUpClosed reason s =
    takeUpSkipped (if s.cfg.participates = true then reason else .notParticipating) s := rfl

theorem NightTold.state (h : NightTold a st s x) : x.replica.night.state = st := congrArg NightRecord.state h.night

theorem NightTold.nightId (h : NightTold a st s x) : x.replica.night.id = s.replica.night.id :=
  (congrArg NightRecord.id h.night :)

theorem NightTold.image (h : NightTold a st s x) : x.replica.night.image = s.replica.night.image :=
  (congrArg NightRecord.image h.night :)

theorem NightTold.idle (h : NightTold a st s x) (idle : s.idle = true) : x.idle = true := by
  rw [idle_iff, h.seq, h.nightId]
  exact idle_iff.mp idle

theorem NightTold.costExceeds (h : NightTold a st s x) : x.costExceeds = s.costExceeds := by
  rw [Bool.eq_iff_iff, costExceeds_iff, costExceeds_iff]
  simp only [h.capacity, h.cfg]

/-- R134: the standing of a night that runs as it is taken up. -/
theorem standingOf_running (running : n.state = .running) : standingOf n n.id .running = .running := by
  simp [standingOf, running]

/-- R135: an idle station skips the night that has moved on without it. -/
theorem NightTold.closed_skippedFor (h : NightTold a st s x) (reason : SkipReason) (r : Replica) :
    SkippedFor (if s.cfg.participates = true then reason else .notParticipating) s.replica.night.id
      (gateAnswers r (takeUpClosed reason x)) := by
  rw [takeUpClosed_eq, ← h.nightId, ← h.cfg]
  exact (takeUpSkipped_skippedFor _ x).gateAnswers r

/-! ### The notice at a GATED station (R148) -/

theorem standingOf_closing {was : Standing} (closing : n.state = .closing) (under : was = .running ∨ was = .held) :
    standingOf n n.id was = .closing := by
  obtain rfl | rfl := under <;> simp [standingOf, closing]

theorem busyNotice_same (same : s.seq.night = s.replica.night.id) : busyNotice s = workStanding s := by
  rw [busyNotice, noteNewer, if_neg]
  rw [same, newer_self]
  exact fun h => nomatch h.1

/-- R134, R148: a GATED station whose night closes skips it. -/
theorem nightNotice_gated (aborted : Bool) (gated : s.seq.state = .gated) (same : s.seq.night = s.replica.night.id)
    (under : s.seq.standing = .running ∨ s.seq.standing = .held) (closing : s.replica.night.state = .closing) :
    nightNotice aborted s = skipNight .closed .closedOut (s.setSeq { s.seq with standing := .closing }) := by
  have busy : ¬ s.idle = true := by simp [idle_iff, gated, SeqState.terminal]
  have moves : s.seq.standing ≠ .closing := by
    obtain running | held := under
    · rw [running]; exact nofun
    · rw [held]; exact nofun
  rw [nightNotice, if_neg busy, busyNotice_same same, workStanding, same, standingOf_closing closing under,
    if_neg moves.symm, standingReaction, setSeq_seq, gated]
  rfl

/-- R148: with no attempt used and no newer night, a skip. -/
theorem skipNight_eq {reason : SkipReason} {after : NightOutcome} (unused : s.seq.outcome.used = 0)
    (none_newer : s.NoNewerNight) : skipNight reason after s = setOutcome .skipped (some reason)
      (enterWith .skipped .skipped (releaseAsk everyPool (cancelAll s))) := by
  rw [skipNight, if_pos unused]
  refine lookNewer_none (none_newer.congr ?_ ?_ ?_)
  · exact .setOutcome _ _ (.enterWith _ _ (.releaseAsk _ (.cancelAll (.refl s))))
  · simp
  · simp

theorem skipNight_seq {reason : SkipReason} {after : NightOutcome} (unused : s.seq.outcome.used = 0)
    (none_newer : s.NoNewerNight) :
    (skipNight reason after s).seq = s.seq.ended .skipped .skipped (some reason) := by
  rw [skipNight_eq unused none_newer, setOutcome_seq, enterWith_seq, releaseAsk_seq, cancelAll_seq, Sequencer.ended]

theorem skipNight_hand {reason : SkipReason} {after : NightOutcome} (unused : s.seq.outcome.used = 0)
    (none_newer : s.NoNewerNight) : (skipNight reason after s).hand = (none, none, s.claim.ownHolds) := by
  simp [skipNight_eq unused none_newer]

/-! ### What a NIGHT frame does at an idle and at a GATED station (R133, R135, R148) -/

/-- R133: the lines of the table, by the first that holds. -/
theorem startTakenUp (told : NightTold .step .running s x) (r : Replica) :
    TookUp x.replica.night (gateAnswers r (takeUpRunning x))
    ∧ (s.cfg.participates = false →
        SkippedFor .notParticipating s.replica.night.id (gateAnswers r (takeUpRunning x)))
    ∧ (s.cfg.participates = true → s.costExceeds = true →
        SkippedFor .costExceeds s.replica.night.id (gateAnswers r (takeUpRunning x)))
    ∧ (s.cfg.participates = true → s.costExceeds = false →
      (s.pins.powerGood = true →
        (gateAnswers r (takeUpRunning x)).seq = (x.seq.taking x.replica.night).ended .localUse .localUse none
          ∧ (gateAnswers r (takeUpRunning x)).isPending .outcomeReady = true)
      ∧ (s.pins.powerGood = false → s.shownHold .load = 0 →
        (gateAnswers r (takeUpRunning x)).Waits (x.seq.taking x.replica.night))) := by
  refine ⟨(TookUp.takeUpRunning x).gateAnswers r, fun absent => ?_, fun takes_part exceeds => ?_,
    fun takes_part fits => ⟨fun on => ?_, fun off none_held => ?_⟩⟩
  · rw [takeUpRunning_absent (told.cfg ▸ absent), ← told.nightId]
    exact (takeUpSkipped_skippedFor _ x).gateAnswers r
  · rw [takeUpRunning_exceeds (told.cfg ▸ takes_part) (told.costExceeds ▸ exceeds), ← told.nightId]
    exact (takeUpSkipped_skippedFor _ x).gateAnswers r
  · rw [takeUpRunning_powered (told.cfg ▸ takes_part) (told.costExceeds ▸ fits) (told.pins ▸ on)]
    have seq := takeUpLocal_seq x
    have still := gateAnswers_still (r := r) (s := takeUpLocal x) (by rw [seq]; exact nofun)
    exact ⟨(seq_of_besideEngine still).trans seq, (isPending_of_besideEngine still _).trans (takeUpLocal_ready x)⟩
  · rw [takeUpRunning_waits (told.cfg ▸ takes_part) (told.costExceeds ▸ fits) (told.pins ▸ off), ← takeUp_seq]
    have taken : (takeUp x).shownHold .load = 0 :=
      ((Kept.takeUp (.refl x)).shownHold .load).trans ((told.held .load).trans none_held)
    exact (enterGated_waits taken).gateAnswers
      (((Kept.refl (takeUp x)).enterGated.shownHold .load).trans taken)

/-- R133: a delivered start step at an idle station. -/
theorem exec_start (frames : s.framing = true) (sync : s.InSync) (idle : s.idle = true)
    (whole : receive g = .whole m (.night s.replica.night.id 1 1 2)) (pending : s.replica.night.state = .pending) :
    ∃ x, NightTold .step .running s x
      ∧ exec (.frameDelivered (.heard g)) s = .next (gateAnswers s.replica (takeUpRunning x)) := by
  obtain ⟨x, told, moves⟩ := exec_nightFrame (a := .step) (f := .pending) (st := .running) frames sync
    (awaitsNoGrant_of_idle idle) whole rfl pending.symm rfl nofun
  rw [nightNotice_running _ (told.idle idle) told.state] at moves
  exact ⟨x, told, moves⟩

/-- R135: a delivered step into CLOSING, or an ABORT, at an idle station. -/
theorem exec_closed (frames : s.framing = true) (sync : s.InSync) (idle : s.idle = true)
    (whole : receive g = .whole m (.night s.replica.night.id a.code s.replica.night.state.code st.code))
    (row : nightRow a s.replica.night.state st = true) (reason : SkipReason)
    (closes : (a = .step ∧ st = .closing ∧ reason = .closed) ∨ (a = .abort ∧ st = .ended ∧ reason = .aborted)) :
    ∃ t, exec (.frameDelivered (.heard g)) s = .next t ∧ t.replica.night = (writeNight s.replica a st).night
      ∧ SkippedFor (if s.cfg.participates = true then reason else .notParticipating) s.replica.night.id t := by
  have advances : a ≠ .resume := by
    obtain ⟨rfl, -⟩ | ⟨rfl, -⟩ := closes
    · exact nofun
    · exact nofun
  obtain ⟨x, told, moves⟩ := exec_nightFrame frames sync (awaitsNoGrant_of_idle idle) whole rfl rfl row advances
  have notice : nightNotice (a == .abort) x = takeUpClosed reason x := by
    obtain ⟨rfl, rfl, rfl⟩ | ⟨rfl, rfl, rfl⟩ := closes
    · exact nightNotice_closing _ (told.idle idle) told.state
    · exact nightNotice_aborted (told.idle idle) told.state
  rw [notice] at moves
  have k : Kept x (gateAnswers s.replica (takeUpClosed reason x)) := .gateAnswers (.takeUpClosed _ (.refl x)) _
  exact ⟨_, moves, (congrArg Replica.night k.replica).trans told.night, told.closed_skippedFor reason s.replica⟩

/-- R148: a delivered step into CLOSING at a GATED station that has used no attempt. -/
theorem exec_gatedClosing (frames : s.framing = true) (sync : s.InSync) (gated : s.seq.state = .gated)
    (whole : receive g = .whole m (.night s.replica.night.id 1 s.replica.night.state.code 4))
    (row : nightRow .step s.replica.night.state .closing = true) (same : s.seq.night = s.replica.night.id)
    (under : s.seq.standing = .running ∨ s.seq.standing = .held) (unused : s.seq.outcome.used = 0) :
    ∃ t, exec (.frameDelivered (.heard g)) s = .next t ∧ t.replica.night.state = .closing
      ∧ t.seq = Sequencer.ended .skipped .skipped (some .closed) { s.seq with standing := .closing }
      ∧ t.claim.request = none := by
  have awaits : s.AwaitsNoGrant := by
    constructor <;> rw [gated] <;> exact nofun
  obtain ⟨x, told, moves⟩ := exec_nightFrame (a := .step) (st := .closing) frames sync awaits whole rfl rfl row nofun
  have night : x.seq.night = x.replica.night.id := by rw [told.seq, same, told.nightId]
  rw [nightNotice_gated _ (told.seq ▸ gated) night (told.seq ▸ under) told.state] at moves
  have none_newer : (x.setSeq { x.seq with standing := .closing }).NoNewerNight :=
    .inr (by rw [setSeq_replica, setSeq_seq, night, newer_self])
  have unused : (x.setSeq { x.seq with standing := .closing }).seq.outcome.used = 0 := told.seq ▸ unused
  have seq := skipNight_seq (reason := .closed) (after := .closedOut) unused none_newer
  have hand := skipNight_hand (reason := .closed) (after := .closedOut) unused none_newer
  have k := Kept.skipNight .closed .closedOut (Kept.setSeq (x := { x.seq with standing := .closing }) (.refl x))
  rw [gateAnswers_elsewhere (by rw [seq]; exact nofun)] at moves
  refine ⟨_, moves, (congrArg (·.night.state) k.judgeWatch.replica).trans told.state, ?_, ?_⟩
  · rw [seq_of_besideEngine (judgeWatch_besideEngine _), seq, setSeq_seq, told.seq]
  · exact congrArg (·.1) ((judgeWatch_hand _).trans hand)

/-- Settles O53: the notice at an idle and at a GATED station, and what the gate does after it. -/
theorem nightTakenUpOrSkipped : Obligations.NightTakenUpOrSkipped := by
  rintro s g m ident f frames sync rfl rfl
  refine ⟨fun older => ?_, fun whole under gated same standing unused => ?_⟩
  · have idle := idle_iff.mpr older
    refine ⟨fun whole pending => ?_, fun whole under => ?_, fun whole under => ?_⟩
    · obtain ⟨x, told, moves⟩ := exec_start frames sync idle whole pending
      obtain ⟨took, absent, exceeds, fits⟩ := startTakenUp told s.replica
      have k : Kept x (gateAnswers s.replica (takeUpRunning x)) := .gateAnswers (.takeUpRunning (.refl x)) _
      refine ⟨_, moves, (congrArg (·.night.state) k.replica).trans told.state, took.night.trans told.nightId,
        took.image.trans told.image, took.newerNight, took.progress, took.swallowed,
        took.standing.trans (standingOf_running told.state), took.record.trans told.nightId, took.causes, took.late,
        fun out => ?_, fun takes_part costly => ?_, fun takes_part within => ⟨fun on => ?_, fun off none_held _ => ?_⟩⟩
      · have skipped := absent out
        exact ⟨skipped.state, skipped.outcome, skipped.skip, skipped.attempt, skipped.ready⟩
      · have skipped := exceeds takes_part (costExceeds_iff.mpr costly)
        exact ⟨skipped.state, skipped.outcome, skipped.skip, skipped.attempt, skipped.ready⟩
      · obtain ⟨seq, ready⟩ := (fits takes_part (costExceeds_eq_false_iff.mpr within)).1 on
        rw [seq]
        exact ⟨rfl, rfl, rfl, rfl, ready⟩
      · rw [← told.nightId]
        obtain gated | claiming := (fits takes_part (costExceeds_eq_false_iff.mpr within)).2 off none_held
        · rw [gated]
          exact ⟨.inl rfl, rfl, rfl⟩
        · rw [claiming]
          exact ⟨.inr rfl, rfl, rfl⟩
    · obtain ⟨t, moves, night, skipped⟩ := exec_closed (a := .step) (st := .closing) frames sync idle whole
        (nightRow_iff.mpr (.inr (.inl ⟨rfl, under, rfl⟩))) .closed (.inl ⟨rfl, rfl, rfl⟩)
      exact ⟨t, moves, congrArg NightRecord.state night, skipped.state, skipped.night, skipped.attempt,
        skipped.record, skipped.outcome, skipped.skip⟩
    · obtain ⟨t, moves, night, skipped⟩ := exec_closed (a := .abort) (st := .ended) frames sync idle whole
        (nightRow_iff.mpr (.inr (.inr (.inr (.inr (.inr ⟨rfl, under, rfl⟩)))))) .aborted (.inr ⟨rfl, rfl, rfl⟩)
      exact ⟨t, moves, congrArg NightRecord.state night, (congrArg NightRecord.aborted night).trans (Bool.or_true _),
        skipped.state, skipped.night, skipped.attempt, skipped.record, skipped.outcome, skipped.skip⟩
  · obtain ⟨t, moves, closing, seq, request⟩ := exec_gatedClosing frames sync gated whole
      (nightRow_iff.mpr (.inr (.inl ⟨rfl, under, rfl⟩))) same standing unused
    refine ⟨t, moves, closing, ?_, ?_, ?_, ?_, request⟩
    all_goals rw [seq]
    all_goals rfl

/-! ### The notice at a FINISHING station (R134, R136, R148) -/

/-- R148: a change of standing sets at most the late flag of a FINISHING station. -/
theorem workStanding_finishing (finishing : s.seq.state = .finishing) : ∃ standing late, workStanding s =
    s.setSeq { s.seq with standing := standing, outcome := { s.seq.outcome with late := late } } := by
  have reaction (standing : Standing) : standingReaction (s.setSeq { s.seq with standing := standing })
      = lateStanding (s.setSeq { s.seq with standing := standing }) := by
    rw [standingReaction, setSeq_seq, finishing]
  rw [workStanding, reaction, lateStanding]
  split
  · exact ⟨_, _, rfl⟩
  · split <;> exact ⟨_, _, rfl⟩

/-- R136: the newer night is noted where it is no longer PENDING. -/
theorem noteNewer_running (is_newer : newer s.replica.night.id s.seq.night = true)
    (running : s.replica.night.state = .running) : noteNewer s = s.setSeq { s.seq with newerNight := true } :=
  if_pos ⟨is_newer, by rw [running]; exact ⟨nofun, fun held => nomatch held.1⟩⟩

/-- R134, R136: a FINISHING station notes the newer night that runs, and keeps its own. -/
theorem nightNotice_finishing (aborted : Bool) (finishing : s.seq.state = .finishing)
    (is_newer : newer s.replica.night.id s.seq.night = true) (running : s.replica.night.state = .running) :
    ∃ standing late, nightNotice aborted s = s.setSeq { s.seq with
      newerNight := true, standing := standing, outcome := { s.seq.outcome with late := late } } := by
  have busy : ¬ s.idle = true := by simp [idle_iff, finishing, SeqState.terminal]
  obtain ⟨standing, late, worked⟩ :=
    workStanding_finishing (s := s.setSeq { s.seq with newerNight := true }) finishing
  refine ⟨standing, late, ?_⟩
  rw [nightNotice, if_neg busy, busyNotice, noteNewer_running is_newer running, worked]
  rfl

/-- R136: a delivered start step of a newer night at a FINISHING station. -/
theorem exec_startFinishing (frames : s.framing = true) (sync : s.InSync) (finishing : s.seq.state = .finishing)
    (is_newer : newer s.replica.night.id s.seq.night = true)
    (whole : receive g = .whole m (.night s.replica.night.id 1 1 2)) (pending : s.replica.night.state = .pending) :
    ∃ t standing late, exec (.frameDelivered (.heard g)) s = .next t ∧ t.seq = { s.seq with
      newerNight := true, standing := standing, outcome := { s.seq.outcome with late := late } } := by
  have awaits : s.AwaitsNoGrant := by
    constructor <;> rw [finishing] <;> exact nofun
  obtain ⟨x, told, moves⟩ := exec_nightFrame (a := .step) (f := .pending) (st := .running) frames sync awaits whole
    rfl pending.symm rfl nofun
  obtain ⟨standing, late, noted⟩ := nightNotice_finishing (NightAction.step == .abort) (told.seq ▸ finishing)
    (by rw [told.nightId, told.seq]; exact is_newer) told.state
  refine ⟨_, standing, late, moves, ?_⟩
  rw [noted, seq_of_besideEngine (gateAnswers_still _), setSeq_seq, told.seq]
  rw [setSeq_seq, told.seq, finishing]
  exact nofun

/-! ### The look for a newer night at DONE (R136, R145) -/

/-- R154: setting an outcome raises OUTCOME_READY where there was none, and lowers nothing. -/
theorem setOutcome_pending {o : NightOutcome} (skip : Option SkipReason) (s : State) (set : o ≠ .unset) :
    (setOutcome o skip s).isPending .outcomeReady
      = (s.isPending .outcomeReady || s.seq.outcome.outcome == .unset) := by
  by_cases unset : s.seq.outcome.outcome = .unset
  · rw [setOutcome_ready skip unset set, unset]
    simp
  · rw [setOutcome, if_neg fun both => unset both.1, beq_false_of_ne unset, Bool.or_false]
    rfl

/-- R145: DONE with its outcome, before the sequencer looks for a newer night. -/
def finishRecorded (s : State) : State := setOutcome s.seq.finish.outcome none (finishLeft s)

theorem finishDone_looks (s : State) : finishDone s = lookNewer (finishRecorded s) := rfl

theorem finishRecorded_seq (s : State) : (finishRecorded s).seq =
    Sequencer.ended .done s.seq.finish.outcome none { s.seq with shutdown := .stopped } := by
  rw [finishRecorded, setOutcome_seq, seq_of_besideEngine (finishLeft_besideEngine s)]
  rfl

theorem finishRecorded_kept (s : State) : Kept s (finishRecorded s) :=
  .setOutcome _ _ (.releaseAsk _ (.noteOff (.enterState _ (.setSeq (.refl s)))))

theorem finishRecorded_sync (sync : s.InSync) : (finishRecorded s).InSync := by
  have left : (finishLeft s).member = s.member := (congrArg State.member (finishLeft_besideEngine s) :)
  rwa [State.InSync, finishRecorded, setOutcome_member, left]

theorem finishRecorded_pending (s : State) : (finishRecorded s).isPending .outcomeReady
    = (s.isPending .outcomeReady || s.seq.outcome.outcome == .unset) := by
  have left := finishLeft_besideEngine s
  rw [finishRecorded, setOutcome_pending none _ (FinishOutcome.outcome_ne_unset _), isPending_of_besideEngine left,
    seq_of_besideEngine left]
  rfl

theorem underWay_iff : n.underWay = true ↔ n.state = .running ∨ (n.state = .held ∧ n.heldFrom = .running) := by
  simp [NightRecord.underWay]

/-- R136: nor is a night that has closed or ended under way. -/
theorem not_underWay_of_past (past : n.state = .closing ∨ n.state = .ended) : ¬ n.underWay = true := by
  rw [underWay_iff]
  obtain closing | ended := past
  · simp [closing]
  · simp [ended]

/-- R136: a night that has not begun is neither under way nor past. -/
theorem not_underWay_of_waiting (waiting : n.state = .pending ∨ (n.state = .held ∧ n.heldFrom = .pending)) :
    ¬ n.underWay = true ∧ ¬ (n.state = .closing ∨ n.state = .ended) := by
  rw [underWay_iff]
  obtain pending | ⟨held, from_pending⟩ := waiting
  · simp [pending]
  · simp [held, from_pending]

section Looks

variable (sync : s.InSync) (is_newer : newer s.replica.night.id s.seq.night = true)
include sync is_newer

theorem lookNewer_underWay (under : s.replica.night.underWay = true) : lookNewer s = takeUpRunning s := by
  rw [lookNewer, if_pos ⟨sync, is_newer⟩, if_pos under]

theorem lookNewer_past (flagged : s.seq.newerNight = true)
    (past : s.replica.night.state = .closing ∨ s.replica.night.state = .ended) :
    lookNewer s = takeUpSkipped .busyPrevious s := by
  rw [lookNewer, if_pos ⟨sync, is_newer⟩, if_neg (not_underWay_of_past past), if_pos ⟨flagged, past⟩]

theorem lookNewer_stays (none_under : ¬ s.replica.night.underWay = true)
    (unseen : ¬ (s.seq.newerNight = true ∧ (s.replica.night.state = .closing ∨ s.replica.night.state = .ended))) :
    lookNewer s = s := by
  rw [lookNewer, if_pos ⟨sync, is_newer⟩, if_neg none_under, if_neg unseen]

end Looks

/-- R133, R154: of the take-ups with the desktop off only a skip raises OUTCOME_READY. -/
theorem takeUpRunning_pending (off : s.pins.powerGood = false) : (takeUpRunning s).isPending .outcomeReady
    = (s.isPending .outcomeReady || (takeUpRunning s).seq.state == .skipped) := by
  have skips (reason : SkipReason) : (takeUpSkipped reason s).isPending .outcomeReady
      = (s.isPending .outcomeReady || (takeUpSkipped reason s).seq.state == .skipped) := by
    have skipped := takeUpSkipped_skippedFor reason s
    rw [skipped.ready, skipped.state, beq_self_eq_true, Bool.or_true]
  cases takes_part : s.cfg.participates with
  | false => rw [takeUpRunning_absent takes_part, skips]
  | true =>
    cases exceeds : s.costExceeds with
    | true => rw [takeUpRunning_exceeds takes_part exceeds, skips]
    | false =>
      rw [takeUpRunning_waits takes_part exceeds off]
      have way := enterGated_towardsWake (takeUp s)
      have events : (enterGated (takeUp s)).isPending .outcomeReady = s.isPending .outcomeReady := by
        have entered : (enterState .gated (gatedReady (takeUp s))).link = s.link := by simp
        rw [State.isPending, way.events, entered]
        rfl
      have state : (enterGated (takeUp s)).seq.state ≠ .skipped := fun skipped => by
        have towards := way.state
        rw [skipped] at towards
        exact nomatch towards
      rw [events, beq_false_of_ne state, Bool.or_false]

/-- R145: a FINISHING station at which POWER_GOOD has fallen, before it looks for a newer night. -/
def finishFallen (s : State) : State := finishRecorded (s.setPins { s.pins with powerGood := false })

theorem exec_fallFinishing (finishing : s.seq.state = .finishing) (on : s.pins.powerGood = true) :
    exec .powerGoodFall s = .next (lookNewer (finishFallen s)) :=
  (exec_powerGoodFall on).trans (congrArg _ ((powerGoodFalls_finishing
    (s := s.setPins { s.pins with powerGood := false }) finishing).trans (finishDone_looks _)))

theorem finishFallen_seq (s : State) : (finishFallen s).seq =
    Sequencer.ended .done s.seq.finish.outcome none { s.seq with shutdown := .stopped } := finishRecorded_seq _

theorem finishFallen_kept (s : State) : Kept (s.setPins { s.pins with powerGood := false }) (finishFallen s) :=
  finishRecorded_kept _

@[simp] theorem finishFallen_replica (s : State) : (finishFallen s).replica = s.replica := (finishFallen_kept s).replica

@[simp] theorem finishFallen_cfg (s : State) : (finishFallen s).cfg = s.cfg := (finishFallen_kept s).cfg

theorem finishFallen_off (s : State) : (finishFallen s).pins.powerGood = false :=
  congrArg Pins.powerGood (finishFallen_kept s).pins

theorem finishFallen_newer (is_newer : newer s.replica.night.id s.seq.night = true) :
    newer (finishFallen s).replica.night.id (finishFallen s).seq.night = true := by
  rwa [finishFallen_replica, finishFallen_seq]

theorem finishFallen_pending (s : State) : (finishFallen s).isPending .outcomeReady
    = (s.isPending .outcomeReady || s.seq.outcome.outcome == .unset) := finishRecorded_pending _

/-- R133, R136: with the desktop off, the newer night is GATED, or goes on to CLAIMING. -/
theorem takeUpRunning_fallen_waits (takes_part : s.cfg.participates = true) (fits : s.costExceeds = false)
    (none_held : s.shownHold .load = 0) :
    (takeUpRunning (finishFallen s)).Waits ((finishFallen s).seq.taking s.replica.night) := by
  have still_fits : (finishFallen s).costExceeds = false := by
    unfold State.costExceeds
    rwa [finishFallen_replica, finishFallen_cfg]
  have still_none : (takeUp (finishFallen s)).shownHold .load = 0 :=
    ((Kept.takeUp (finishFallen_kept s)).shownHold .load).trans none_held
  rw [takeUpRunning_waits (by rwa [finishFallen_cfg]) still_fits (finishFallen_off s), ← finishFallen_replica s,
    ← takeUp_seq]
  exact enterGated_waits still_none

theorem takeUpSkipped_fallen (reason : SkipReason) (s : State) :
    SkippedFor reason s.replica.night.id (takeUpSkipped reason (finishFallen s)) :=
  finishFallen_replica s ▸ takeUpSkipped_skippedFor reason (finishFallen s)

/-- Settles O54: what the notice sets while FINISHING, and the look for a newer night at DONE. -/
theorem newerNightAtATerminalState : Obligations.NewerNightAtATerminalState := by
  intro s sync finishing is_newer
  refine ⟨fun g m frames whole pending => ?_, fun on => ?_⟩
  · obtain ⟨t, standing, late, moves, seq⟩ := exec_startFinishing frames sync finishing is_newer whole pending
    refine ⟨t, moves, ?_, ?_, ?_⟩
    all_goals rw [seq]
    exact finishing
  have falls := exec_fallFinishing finishing on
  have in_step : (finishFallen s).InSync := finishRecorded_sync sync
  have seen := finishFallen_newer is_newer
  have stays (none_under : ¬ s.replica.night.underWay = true)
      (unseen : ¬ (s.seq.newerNight = true ∧ (s.replica.night.state = .closing ∨ s.replica.night.state = .ended))) :
      lookNewer (finishFallen s) = finishFallen s :=
    lookNewer_stays in_step seen (by rwa [finishFallen_replica]) (by rwa [finishFallen_replica, finishFallen_seq])
  refine ⟨fun under => ?_, fun past => ⟨fun flagged => ?_, fun unflagged => ?_⟩, fun waiting => ?_⟩
  · rw [lookNewer_underWay in_step seen (by rw [finishFallen_replica]; exact underWay_iff.mpr under)] at falls
    have took : TookUp s.replica.night (takeUpRunning (finishFallen s)) :=
      finishFallen_replica s ▸ TookUp.takeUpRunning (finishFallen s)
    refine ⟨_, falls, took.night, took.image, took.newerNight, took.record, ?_, fun absent => ?_,
      fun takes_part costly => ?_, fun takes_part within none_held _ => ?_⟩
    · rw [takeUpRunning_pending (finishFallen_off s), finishFallen_pending]
    · rw [takeUpRunning_absent (by rwa [finishFallen_cfg])]
      have skipped := takeUpSkipped_fallen .notParticipating s
      exact ⟨skipped.state, skipped.outcome, skipped.skip⟩
    · have exceeds : (finishFallen s).costExceeds = true := costExceeds_iff.mpr (by simpa using costly)
      rw [takeUpRunning_exceeds (by rwa [finishFallen_cfg]) exceeds]
      have skipped := takeUpSkipped_fallen .costExceeds s
      exact ⟨skipped.state, skipped.outcome, skipped.skip⟩
    · obtain gated | claiming :=
        takeUpRunning_fallen_waits takes_part (costExceeds_eq_false_iff.mpr within) none_held
      · rw [gated]
        exact ⟨.inl rfl, rfl⟩
      · rw [claiming]
        exact ⟨.inr rfl, rfl⟩
  · rw [lookNewer_past in_step seen (by rwa [finishFallen_seq]) (by rwa [finishFallen_replica])] at falls
    have skipped := takeUpSkipped_fallen .busyPrevious s
    exact ⟨_, falls, skipped.state, skipped.night, skipped.newerNight, skipped.record, skipped.outcome, skipped.skip,
      skipped.ready⟩
  · rw [stays (not_underWay_of_past past) (by simp [unflagged])] at falls
    refine ⟨_, falls, ?_, ?_, ?_⟩
    all_goals rw [finishFallen_seq]
    all_goals rfl
  · obtain ⟨none_under, none_past⟩ := not_underWay_of_waiting waiting
    rw [stays none_under fun both => none_past both.2] at falls
    refine ⟨_, falls, ?_, ?_, ?_, ?_⟩
    all_goals rw [finishFallen_seq]
    all_goals rfl

end Sys2Proof.Machine
